-- ==== Sys2Proof/Word.lean ====
section
/-! DEFINITION. Bytes, operation words, line levels, controller halves and targets (spec/00_scope.md R13, R14). -/

namespace Sys2Proof

/-- A byte, 8 bits (R14). -/
abbrev Byte := BitVec 8

/-- A word, 16 bits (R14): an operation word or a status word. -/
abbrev Word := BitVec 16

/-- The electrical level of a line, in {0, 1} (R33, R34). -/
inductive Level where
  | low
  | high
  deriving DecidableEq, Repr, Inhabited

/-- `1 - l`, the other level (R13). -/
def Level.flip : Level → Level
  | .low => .high
  | .high => .low

/-- The two panel controllers (R2, R211). -/
inductive Half where
  | master
  | slave
  deriving DecidableEq, Repr, Inhabited

/-- A target: `{M}`, `{S}` or `{M, S}` (R13). -/
inductive Target where
  | master
  | slave
  | both
  deriving DecidableEq, Repr, Inhabited

/-- A subset of `{M, S}`: the logical set of asserted selects (R32). -/
structure Sel where
  m : Bool
  s : Bool
  deriving DecidableEq, Repr, Inhabited

/-- The two passes of a render; code 0 is the master pass, code 1 the slave pass (R41). -/
inductive Pass where
  | master
  | slave
  deriving DecidableEq, Repr, Inhabited

end Sys2Proof
end

