-- ==== Sys2Proof/Config.lean ====
section
/-! DEFINITION. The configuration (spec/00_scope.md R6), the draws of the external agents, and the free values.
A free value is an `opaque` constant: nothing can be proved of what it is. -/

namespace Sys2Proof

/-- One step of RESET_SEQ: a level of the reset line and how long it is held (R130). -/
structure ResetStep where
  level : Level
  delay : Nat
  deriving DecidableEq, Repr, Inhabited

/-- One entry of INIT_TABLE: target, command byte, parameter bytes (R93). -/
structure InitEntry where
  target : Target
  cmd : Byte
  params : List Byte
  deriving DecidableEq, Repr, Inhabited

/-- The order in which the bits of a byte go onto the serial line (R6 BIT_ORDER, R90). -/
inductive BitOrder where
  | msbFirst
  | lsbFirst
  deriving DecidableEq, Repr, Inhabited

/-- The parameters of R6, one field each; BPR, HALF and FB_SIZE are computed from `w` and `h` (R7).
The fields after `rstReset` are timing only: no rule reads them (R15, R90). -/
structure Config where
  w : Nat
  h : Nat
  yieldRows : Nat
  nPolls : Nat
  resetSeq : List ResetStep
  initTable : List InitEntry
  cmdDtm : Byte
  cmdPon : Byte
  cmdDrf : Byte
  drfParam : Byte
  cmdPof : Byte
  pofParam : Byte
  cycleTarget : Target
  busyActive : Level
  csActive : Level
  dcCmd : Level
  dcData : Level
  bitOrder : BitOrder
  rstReset : Level
  tPoll : Nat
  tBusyTimeout : Nat
  tBusySettle : Nat
  tPonSettle : Nat
  tPassSettle : Nat
  spiMode : Nat
  sclkFreq : Nat
  deriving DecidableEq, Repr, Inhabited

/-- The three commands of a power cycle, as the sequencer's position in it (R31, R139). -/
inductive CyclePhase where
  | powerOn
  | refresh
  | powerOff
  deriving DecidableEq, Repr, Inhabited

/-- The sequencer's working state inside an operation (R31). -/
structure Work where
  /-- storage cursor, a byte offset -/
  cur : Nat
  /-- row buffer -/
  rowbuf : List Byte
  /-- the current pass of a render -/
  pass : Pass
  /-- the row index `r` -/
  row : Nat
  /-- the index into INIT_TABLE -/
  initIdx : Nat
  /-- the phase of the power cycle -/
  cyclePhase : CyclePhase
  deriving DecidableEq, Repr, Inhabited

/-- How the storage agent answers one read of `n` bytes (R64). -/
inductive ReadReply where
  /-- the whole slice of the file, as the deterministic oracle answers -/
  | whole
  /-- a read failure: at most `k` bytes of the slice, a prefix of it -/
  | failed (k : Nat)
  /-- another agent writes the file in the interval: any bytes, of any length up to `n` -/
  | interfered (bs : List Byte)
  deriving DecidableEq, Repr, Inhabited

namespace Config

/-! Free values: the OPEN parameters of R6 (log entry 2). -/

/-- N_POLLS less one; N_POLLS itself is at least 1 (R7). -/
opaque openPolls : Nat
/-- The first step of RESET_SEQ, which is non-empty (R7). -/
opaque openResetStep : ResetStep
/-- The further steps of RESET_SEQ. -/
opaque openResetRest : List ResetStep
/-- INIT_TABLE. -/
opaque openInitTable : List InitEntry
/-- CMD_DTM. -/
opaque openDtm : Byte
/-- CMD_PON. -/
opaque openPon : Byte
/-- CMD_DRF. -/
opaque openDrf : Byte
/-- DRF_PARAM. -/
opaque openDrfParam : Byte
/-- CMD_POF. -/
opaque openPof : Byte
/-- POF_PARAM. -/
opaque openPofParam : Byte
/-- T_POLL, T_BUSY_TIMEOUT, T_BUSY_SETTLE, T_PON_SETTLE, T_PASS_SETTLE, SPI_MODE, SCLK_FREQ, numbered 0 to 6. -/
opaque openTiming : Nat → Nat

/-! Free values: the draws of the external agents and the unspecified working state, each applied to a counter. -/

/-- A BUSY sample (R132, U2, log entry 3). -/
opaque freeBusy : Nat → Level
/-- The stored file met by SizeQuery: none, or its bytes (R61, R64, U6, log entry 4). -/
opaque freeFile : Nat → Option (List Byte)
/-- The storage agent's answer to a read (R64, U7, U8, log entry 5). -/
opaque freeRead : Nat → ReadReply
/-- The working state between operations (R31, R50, U22, log entry 7). -/
opaque freeWork : Nat → Work

/-- The configuration of `State.reset`: R6's value where R6 gives one (log entry 15), a free value where R6 says OPEN. -/
def platform : Config where
  w := 1200
  h := 1600
  yieldRows := 32
  nPolls := openPolls + 1
  resetSeq := openResetStep :: openResetRest
  initTable := openInitTable
  cmdDtm := openDtm
  cmdPon := openPon
  cmdDrf := openDrf
  drfParam := openDrfParam
  cmdPof := openPof
  pofParam := openPofParam
  cycleTarget := .both
  busyActive := .low
  csActive := .low
  dcCmd := .low
  dcData := .high
  bitOrder := .msbFirst
  rstReset := .high
  tPoll := openTiming 0
  tBusyTimeout := openTiming 1
  tBusySettle := openTiming 2
  tPonSettle := openTiming 3
  tPassSettle := openTiming 4
  spiMode := openTiming 5
  sclkFreq := openTiming 6

end Config

end Sys2Proof
end

