-- ==== Sys2Proof/Syntax.lean ====
section
/-! DEFINITION. The operations, one constructor per row of spec/opcode_table.json (spec/30_encoding.md R82). -/

namespace Sys2Proof

/-- PanelBus-OP version 1. An illegal word is no instruction: the step executes it (R192). -/
inductive Instr where
  /-- NOP; the immediate is a hint and is ignored (R88, R100) -/
  | nop (imm : Byte)
  /-- SEL Master (R102) -/
  | selM
  /-- SEL Slave (R102) -/
  | selS
  /-- SEL Both (R102) -/
  | selBoth
  /-- DESEL Master (R105) -/
  | deselM
  /-- DESEL Slave (R105) -/
  | deselS
  /-- DESEL Both (R105) -/
  | deselBoth
  /-- CMD with its command byte (R110) -/
  | cmd (c : Byte)
  /-- DATA with its data byte (R113) -/
  | data (d : Byte)
  /-- BLOCK with its payload; `L` is the payload's length (R84, R116) -/
  | block (payload : List Byte)
  /-- RSTP (R131) -/
  | rstp
  /-- BWAIT (R134) -/
  | bwait
  /-- INIT (R136) -/
  | init
  /-- RENDER (R160) -/
  | render
  /-- CYCLE (R139) -/
  | cycle
  /-- DISPLAY (R170) -/
  | display
  /-- RDSTAT with its status index (R190) -/
  | rdstat (k : Byte)
  deriving DecidableEq, Repr

end Sys2Proof
end

