-- ==== Sys2Proof/WellFormed.lean ====
section
/-! DEFINITION. What a well-formed instruction and an accepted configuration are (spec/00_scope.md R7, spec/30_encoding.md R81). -/

namespace Sys2Proof

/-- The one check an operand needs: a BLOCK's byte count fits its 16-bit length word, `0 <= L <= 65535` (R81, R94).
Every other operand is in range by its type. -/
def Instr.wf : Instr → Bool
  | .block payload => decide (payload.length ≤ 65535)
  | .nop _ | .selM | .selS | .selBoth | .deselM | .deselS | .deselBoth | .cmd _ | .data _ | .rstp | .bwait
  | .init | .render | .cycle | .display | .rdstat _ => true

/-- `n >= 1`, written so that it is decided without knowing the whole of `n`. -/
def atLeastOne : Nat → Bool
  | 0 => false
  | _ + 1 => true

/-- The constraints of R7. The targets of INIT_TABLE and the byte-valued parameters are in range by their types. -/
def Config.valid (c : Config) : Bool :=
  atLeastOne c.w && decide (c.w % 4 = 0) && atLeastOne c.h && decide (c.h ≤ 2047) && atLeastOne c.yieldRows
    && atLeastOne c.nPolls && !c.resetSeq.isEmpty

end Sys2Proof
end

