-- ==== Sys2Proof/Decode.lean ====
section
/-! DEFINITION. The operation encoding: the total decoder, the encoder, program well-formedness and the opcode-table
word (spec/30_encoding.md R80 to R89, R95). -/

namespace Sys2Proof

/-! The fields of an operation word (R80). -/

def opcOf (w : Word) : BitVec 4 := w.extractLsb' 12 4

def tgtOf (w : Word) : BitVec 2 := w.extractLsb' 10 2

def rsvOf (w : Word) : BitVec 2 := w.extractLsb' 8 2

def immOf (w : Word) : Byte := w.extractLsb' 0 8

/-- The high byte of a payload word (R85). -/
def hiByte (w : Word) : Byte := w.extractLsb' 8 8

/-- The low byte of a payload word (R85). -/
def loByte (w : Word) : Byte := w.extractLsb' 0 8

/-- The decoding of TGT (R83); `00` names no target. -/
def targetOf (t : BitVec 2) : Option Target :=
  if t = 0b01#2 then some .master else if t = 0b10#2 then some .slave else if t = 0b11#2 then some .both else none

/-- SEL of a target (R102). -/
def selInstr : Target → Instr
  | .master => .selM
  | .slave => .selS
  | .both => .selBoth

/-- DESEL of a target (R105). -/
def deselInstr : Target → Instr
  | .master => .deselM
  | .slave => .deselS
  | .both => .deselBoth

/-- What one operation word says by itself (R86). -/
inductive Head where
  /-- a whole operation of one word -/
  | one (i : Instr)
  /-- a legal BLOCK word: the length and the payload follow -/
  | blockHead
  /-- ILLEGAL (R87) -/
  | illegal
  deriving DecidableEq, Repr

/-- The legal operation if its TGT is `00`, else ILLEGAL (R86). -/
def needNoTarget (w : Word) (h : Head) : Head := if tgtOf w = 0b00#2 then h else .illegal

/-- The legal operation if its TGT is `00` and its IMM8 is `0x00`, else ILLEGAL (R86). -/
def needBare (w : Word) (h : Head) : Head := if tgtOf w = 0b00#2 ∧ immOf w = 0x00#8 then h else .illegal

/-- A select operation: it needs a target and IMM8 `0x00` (R83, R86). -/
def needTarget (w : Word) (f : Target → Instr) : Head :=
  match targetOf (tgtOf w) with
  | some t => if immOf w = 0x00#8 then .one (f t) else .illegal
  | none => .illegal

/-- `decode(w)` of R86, in the order of its cases. -/
def decodeHead (w : Word) : Head :=
  if rsvOf w ≠ 0b00#2 then .illegal
  else if opcOf w = 0x0#4 then needNoTarget w (.one (.nop (immOf w)))
  else if opcOf w = 0x1#4 then needTarget w selInstr
  else if opcOf w = 0x2#4 then needTarget w deselInstr
  else if opcOf w = 0x3#4 then needNoTarget w (.one (.cmd (immOf w)))
  else if opcOf w = 0x4#4 then needNoTarget w (.one (.data (immOf w)))
  else if opcOf w = 0x5#4 then needBare w .blockHead
  else if opcOf w = 0x6#4 then needBare w (.one .rstp)
  else if opcOf w = 0x7#4 then needBare w (.one .bwait)
  else if opcOf w = 0x8#4 then needBare w (.one .init)
  else if opcOf w = 0x9#4 then needBare w (.one .render)
  else if opcOf w = 0xA#4 then needBare w (.one .cycle)
  else if opcOf w = 0xB#4 then needBare w (.one .display)
  else if opcOf w = 0xC#4 then needNoTarget w (.one (.rdstat (immOf w)))
  else .illegal

/-- The first `n` payload bytes and the words after them, or `none` where the words run out (R84, R85). -/
def unpack : List Word → Nat → Option (List Byte × List Word)
  | ws, 0 => some ([], ws)
  | [], _ + 1 => none
  | w :: ws, 1 => some ([hiByte w], ws)
  | w :: ws, n + 2 =>
    match unpack ws n with
    | some (bs, rest) => some (hiByte w :: loByte w :: bs, rest)
    | none => none

/-- What stands at the front of a list of operation words. -/
inductive Decoded where
  /-- no word is left -/
  | empty
  /-- an operation, and the words after it -/
  | op (i : Instr) (rest : List Word)
  /-- an illegal word, one word long (R87), and the words after it -/
  | illegal (w : Word) (rest : List Word)
  /-- a BLOCK whose words run past the end (R84) -/
  | truncated
  deriving DecidableEq, Repr

/-- The decoder, total on every list of words (R84, R86). -/
def decode : List Word → Decoded
  | [] => .empty
  | w :: ws =>
    match decodeHead w with
    | .one i => .op i ws
    | .illegal => .illegal w ws
    | .blockHead =>
      match ws with
      | [] => .truncated
      | len :: ws' =>
        match unpack ws' len.toNat with
        | some (bs, rest) => .op (.block bs) rest
        | none => .truncated

/-- The length of an operation in words: 1, and `2 + ceil(L/2)` for BLOCK (R82, R84). -/
def Instr.words : Instr → Nat
  | .block payload => 2 + (payload.length + 1) / 2
  | .nop _ | .selM | .selS | .selBoth | .deselM | .deselS | .deselBoth | .cmd _ | .data _ | .rstp | .bwait
  | .init | .render | .cycle | .display | .rdstat _ => 1

/-! The encoder, written from the tables of R82, R85 and R94. -/

/-- Payload packing: the first byte of a pair is the high byte; an odd last byte is followed by `0x00` (R85). -/
def pack : List Byte → List Word
  | [] => []
  | [b] => [b ++ 0x00#8]
  | b :: c :: bs => (b ++ c) :: pack bs

/-- The words of an instruction (R82, R84, R94). -/
def encode : Instr → List Word
  | .nop imm => [0x00#8 ++ imm]
  | .selM => [0x1400#16]
  | .selS => [0x1800#16]
  | .selBoth => [0x1C00#16]
  | .deselM => [0x2400#16]
  | .deselS => [0x2800#16]
  | .deselBoth => [0x2C00#16]
  | .cmd c => [0x30#8 ++ c]
  | .data d => [0x40#8 ++ d]
  | .block payload => 0x5000#16 :: BitVec.ofNat 16 payload.length :: pack payload
  | .rstp => [0x6000#16]
  | .bwait => [0x7000#16]
  | .init => [0x8000#16]
  | .render => [0x9000#16]
  | .cycle => [0xA000#16]
  | .display => [0xB000#16]
  | .rdstat k => [0xC0#8 ++ k]

/-- The words of a sequence of instructions. -/
def encodeAll : List Instr → List Word
  | [] => []
  | i :: is => encode i ++ encodeAll is

/-! Programs (R30). -/

/-- No BLOCK among the first `n` operations runs past the end of the words. -/
def programOkFor : Nat → List Word → Bool
  | 0, _ => true
  | n + 1, ws =>
    match decode ws with
    | .empty => true
    | .truncated => false
    | .op _ rest => programOkFor n rest
    | .illegal _ rest => programOkFor n rest

/-- A program is well-formed when no BLOCK operation's words run past its end (R30, R84); it has at most as many
operations as words. -/
def programOk (p : List Word) : Bool := programOkFor p.length p

/-! A row of spec/opcode_table.json as a number: bit 0 is the least significant bit of the first word, word `j` is
bits `16 j + 15 .. 16 j`, and the bits from `nbits` on are 0. -/

/-- Word `j` of the row. -/
def tableWord (nbits w j : Nat) : Word := BitVec.ofNat 16 ((w % 2 ^ nbits) >>> (16 * j))

/-- How many words the row's instruction has: by R84 only BLOCK has more than one. -/
def tableLength (nbits w : Nat) : Nat :=
  match decodeHead (tableWord nbits w 0) with
  | .blockHead => 2 + ((tableWord nbits w 1).toNat + 1) / 2
  | .one _ => 1
  | .illegal => 1

/-- The row's words, in the order the host presents them. -/
def tableWords (nbits w : Nat) : List Word := (List.range (tableLength nbits w)).map (tableWord nbits w)

/-- The instruction the decoder reads from a row's bits; `none` where it reads an illegal word. -/
def decodeTableWord (nbits w : Nat) : Option Instr :=
  match decode (tableWords nbits w) with
  | .op i _ => some i
  | .empty => none
  | .illegal _ _ => none
  | .truncated => none

end Sys2Proof
end

