-- ==== Sys2Proof/Machine/State.lean ====
section
/-! DEFINITION. The block's state, its events, its reset state and the reasons a step can stop (spec/10_state.md R30 to
R41, R50, R51). -/

namespace Sys2Proof.Machine

/-- The output lines a `LINE` event can name (R32). -/
inductive Line where
  | csM
  | csS
  | rst
  deriving DecidableEq, Repr

/-- The fixed delays (R15). -/
inductive Delay where
  | poll
  | busySettle
  | ponSettle
  | passSettle
  | resetStep (i : Nat)
  deriving DecidableEq, Repr

/-- The events of the trace (R32). -/
inductive Event where
  /-- `LINE(l, v)`: a line was driven to level `v` -/
  | line (l : Line) (v : Level)
  /-- `XFER(dc, sel, b)`: one byte was clocked out -/
  | xfer (dc : Level) (sel : Sel) (b : Byte)
  /-- `SAMPLE(v)`: the BUSY line was sampled -/
  | sample (v : Level)
  /-- `KEEPALIVE` -/
  | keepalive
  /-- `DELAY(d)` -/
  | delay (d : Delay)
  /-- `SOPEN(r)`: the storage was opened; `r` is the size found -/
  | sopen (r : Option Nat)
  /-- `SSEEK(o)` -/
  | sseek (o : Nat)
  /-- `SREAD(o, n, k)`: a read of `n` bytes at offset `o` returned `k` bytes -/
  | sread (o n k : Nat)
  /-- `SCLOSE` -/
  | sclose
  /-- `HOSTREAD(v)`: a status word was returned to the host -/
  | hostread (v : Word)
  deriving DecidableEq, Repr

/-- The power states (R36); code 3 is no state. -/
inductive Power where
  | off
  | poweredOn
  | refreshing
  deriving DecidableEq, Repr

/-- The named result codes (R200). -/
inductive ResultCode where
  | ok
  | busyTimeout
  | noImage
  | shortReadMaster
  | shortReadSlave
  | notInitialized
  | noValidRender
  | illegalOp
  deriving DecidableEq, Repr

/-- Render progress: the pass and the 11-bit count of rows completed in it (R41). -/
structure RProg where
  pass : Pass
  rows : BitVec 11
  deriving DecidableEq, Repr

/-- The sequencer's phase (R51). An operation is one step of the model, so `k` is always 0 (log entry 8). -/
inductive Phase where
  | idle
  | executing (op : Instr) (k : Nat)
  deriving DecidableEq, Repr

/-- Storage content as (offset, byte) cells. In canonical form the offsets rise strictly and no byte is `0x00`, which
is what an unlisted offset reads as (log entry 6). -/
abbrev Memory := List Host.Cell

/-- The canonical form, for offsets from `lo` on. -/
def Memory.wfFrom (lo : Nat) : Memory → Bool
  | [] => true
  | (o, b) :: rest => decide (lo ≤ o) && decide (b ≠ 0x00#8) && Memory.wfFrom (o + 1) rest

/-- The canonical form. -/
def Memory.wf (m : Memory) : Bool := Memory.wfFrom 0 m

/-- An opened file: its size in bytes and its content at the offsets below it (R61, R64). -/
structure StoredFile where
  size : Nat
  cells : Memory
  deriving DecidableEq, Repr

/-- The model's own fields: what the external agents will answer. Where a list is empty, the answer is a free value of
Config, numbered by `draws` (log entries 3, 4, 5, 14). -/
structure Env where
  /-- pending BUSY levels -/
  busyIn : List Level
  /-- pending answers to SizeQuery -/
  openIn : List (Option (List Byte))
  /-- pending answers to MemRead -/
  readIn : List ReadReply
  /-- how many free values have been drawn -/
  draws : Nat
  deriving DecidableEq, Repr

/-- The state of the block. `cfg` and `prog` are parameters of the step relation (R10), held here because a step sees
nothing else (log entry 1). -/
structure State where
  cfg : Config
  /-- the host's program P (R30) -/
  prog : List Word
  /-- the external agents' answers -/
  env : Env
  /-- index of the next word (R30) -/
  pc : Nat
  /-- the events since reset, oldest first (R32) -/
  trace : List Event
  /-- master select asserted (R33) -/
  csm : Bool
  /-- slave select asserted (R33) -/
  css : Bool
  /-- discriminator level (R33) -/
  dc : Level
  /-- reset-line level (R33) -/
  rst : Level
  /-- level of the last BUSY sample (R34) -/
  busyLast : Level
  /-- a BUSY sample has been taken (R34) -/
  busyValid : Bool
  /-- PanelState (R35) -/
  initialized : Bool
  /-- R36 -/
  power : Power
  /-- R37 -/
  renderOk : Bool
  /-- the last busy-wait timed out (R38) -/
  tout : Bool
  /-- timed-out busy-waits since reset (R38) -/
  tocnt : BitVec 16
  /-- result code (R39) -/
  result : Byte
  /-- word of the last RDSTAT (R40) -/
  rdata : Word
  /-- R41 -/
  rprog : RProg
  /-- R51 -/
  phase : Phase
  /-- working state (R31) -/
  work : Work
  /-- the file between its SOPEN and its SCLOSE (R61) -/
  openFile : Option StoredFile
  deriving DecidableEq, Repr

/-- The reset state of a block with configuration `c`: the table of R50, no program and no pending answers. -/
def State.resetWith (c : Config) : State where
  cfg := c
  prog := []
  env := { busyIn := [], openIn := [], readIn := [], draws := 1 }
  pc := 0
  trace := []
  csm := false
  css := false
  dc := .low
  rst := c.rstReset
  busyLast := .low
  busyValid := false
  initialized := false
  power := .off
  renderOk := false
  tout := false
  tocnt := 0x0000#16
  result := 0x00#8
  rdata := 0x0000#16
  rprog := { pass := .master, rows := 0#11 }
  phase := .idle
  work := Config.freeWork 0
  openFile := none

/-- The machine right after reset (R50, R230), with the configuration of log entry 2. -/
def State.reset : State := State.resetWith Config.platform

/-- The machine has no faults: no rule gives any behaviour the treatment `fault` (spec/93_implementation_defined.md
Part 1, R202, R206). -/
inductive Fault : Type where
  deriving DecidableEq, Repr

/-- The reasons a step gives no next state. None of them ends an instruction that could be executed. -/
inductive Refusal where
  /-- Raised by an arm of `exec` whose instruction has no meaning yet; there is none. Safe. -/
  | notModelled (mnemonic : String)
  /-- Raised by `step`: the configuration breaks a constraint of R7, which refuses it (U19, log entry 11). Safe. -/
  | badConfig
  /-- Raised by `step` and `State.load`: a BLOCK's words run past the end of the program, and R30 refuses such a program
  (U20, log entry 10). Safe. -/
  | truncatedBlock
  /-- Raised by `step` in a state whose phase is Executing, which no run reaches: an operation is one step (R51, log
  entry 8). Safe. -/
  | midOperation
  deriving DecidableEq, Repr

end Sys2Proof.Machine
end

