-- ==== Sys2Proof/Machine/Operands.lean ====
section
/-! DEFINITION. Operand forms: targets as sets of controllers, line levels, the geometry of the framebuffer, and the
content of an opened file (spec/00_scope.md R7, R13; spec/20_memory.md R64, R65). -/

namespace Sys2Proof

/-- `M ∈ t` (R13). -/
def Target.hasM : Target → Bool
  | .master => true
  | .slave => false
  | .both => true

/-- `S ∈ t` (R13). -/
def Target.hasS : Target → Bool
  | .master => false
  | .slave => true
  | .both => true

/-- Whether a controller is in a select set. -/
def Sel.has (sel : Sel) : Half → Bool
  | .master => sel.m
  | .slave => sel.s

/-- The target that is one controller alone. -/
def Half.target : Half → Target
  | .master => .master
  | .slave => .slave

/-- BPP, bits per pixel (R6). -/
def bitsPerPixel : Nat := 4

/-- BPR = W/2, bytes per framebuffer row (R6, R7). -/
def Config.bpr (c : Config) : Nat := c.w / 2

/-- HALF = W/4, bytes per half-row (R6, R7). -/
def Config.half (c : Config) : Nat := c.w / 4

/-- FB_SIZE = H * BPR (R7, R8). -/
def Config.fbSize (c : Config) : Nat := c.h * c.bpr

/-- The electrical level of an asserted or deasserted chip-select line (R13, R104). -/
def Config.csLevel (c : Config) (asserted : Bool) : Level := if asserted then c.csActive else c.csActive.flip

/-- The N_POLLS that stands for a time-out: `ceil(T_BUSY_TIMEOUT / T_POLL)` (R17, R135). DESIGN CHOICE: for T_POLL = 0, where
the spec gives no value, it is 0 (log entry 19). No step reads it. -/
def Config.faithfulPolls (c : Config) : Nat := (c.tBusyTimeout + c.tPoll - 1) / c.tPoll

/-- The bytes a read of at most `n` bytes returns, where `slice` is what the file holds there (R64). -/
def ReadReply.bytes (r : ReadReply) (n : Nat) (slice : List Byte) : List Byte :=
  match r with
  | .whole => slice
  | .failed k => slice.take k
  | .interfered bs => bs.take n

namespace Machine

/-- The asserted set (R109). -/
def State.sel (s : State) : Sel := { m := s.csm, s := s.css }

/-- The byte at an offset; an unlisted offset reads `0x00` (log entry 6). -/
def Memory.read : Memory → Nat → Byte
  | [], _ => 0x00#8
  | (a, b) :: rest, o => if a = o then b else Memory.read rest o

/-- The cells of a list of bytes that starts at offset `o`. -/
def Memory.ofBytesAt : Nat → List Byte → Memory
  | _, [] => []
  | o, b :: bs => if b = 0x00#8 then Memory.ofBytesAt (o + 1) bs else (o, b) :: Memory.ofBytesAt (o + 1) bs

/-- The file whose content is the byte list `F` (R64). -/
def StoredFile.ofBytes (bs : List Byte) : StoredFile := { size := bs.length, cells := Memory.ofBytesAt 0 bs }

/-- `F[off .. min(off + n, s))`, the slice of the file a read of `n` bytes at `off` meets (R64). -/
def StoredFile.slice (f : StoredFile) (off n : Nat) : List Byte :=
  (List.range (min n (f.size - off))).map fun i => Memory.read f.cells (off + i)

end Machine

end Sys2Proof
end

