-- ==== Sys2Proof/Machine/Flags.lean ====
section
/-! DEFINITION. The codes of R36 and R200 and the status registers (spec/10_state.md R42 to R48, spec/43_status.md R191).
The block has no condition codes (R52): these status bits are its flags. -/

namespace Sys2Proof

/-- A level as the number 0 or 1. -/
def Level.bit : Level → Word
  | .low => 0#16
  | .high => 1#16

/-- The code of a pass (R41). -/
def Pass.bit : Pass → Word
  | .master => 0#16
  | .slave => 1#16

/-- Booleans are 1 for true and 0 for false (R191). -/
def boolBit (b : Bool) : Word := if b then 1#16 else 0#16

namespace Machine

/-- The code of a power state (R36). -/
def Power.code : Power → Word
  | .off => 0#16
  | .poweredOn => 1#16
  | .refreshing => 2#16

/-- The result codes (R200). -/
def ResultCode.code : ResultCode → Byte
  | .ok => 0x00#8
  | .busyTimeout => 0x01#8
  | .noImage => 0x10#8
  | .shortReadMaster => 0x11#8
  | .shortReadSlave => 0x12#8
  | .notInitialized => 0x20#8
  | .noValidRender => 0x21#8
  | .illegalOp => 0x30#8

/-- STAT, index 0 (R43). -/
def statWord (s : State) : Word :=
  boolBit s.tout <<< 4 ||| boolBit s.renderOk <<< 3 ||| s.power.code <<< 1 ||| boolBit s.initialized

/-- RESULT, index 1 (R44). -/
def resultWord (s : State) : Word := s.result.setWidth 16

/-- TOCNT, index 2 (R45). -/
def tocntWord (s : State) : Word := s.tocnt

/-- LINES, index 3 (R46). -/
def linesWord (s : State) : Word :=
  boolBit s.busyValid <<< 5 ||| (if s.busyValid then s.busyLast.bit else 0#16) <<< 4 ||| s.rst.bit <<< 3
    ||| s.dc.bit <<< 2 ||| boolBit s.css <<< 1 ||| boolBit s.csm

/-- RPROG, index 4 (R47). -/
def rprogWord (s : State) : Word := s.rprog.pass.bit <<< 15 ||| s.rprog.rows.setWidth 16

/-- `status_value(k)` of R191; a reserved index reads `0x0000` (R48). -/
def statusValue (k : Byte) (s : State) : Word :=
  if k = 0x00#8 then statWord s
  else if k = 0x01#8 then resultWord s
  else if k = 0x02#8 then tocntWord s
  else if k = 0x03#8 then linesWord s
  else if k = 0x04#8 then rprogWord s
  else 0x0000#16

/-- `min(tocnt + 1, 0xFFFF)` (R17, R133). -/
def saturatingSucc (n : BitVec 16) : BitVec 16 := BitVec.ofNat 16 (min (n.toNat + 1) 0xFFFF)

end Machine

end Sys2Proof
end

