-- ==== Sys2Proof/Machine/Ops.lean ====
section
/-! DEFINITION. The named operations: events, the bus primitives, the busy-wait, the storage port, ending an operation
by `raise` or normally, and block reset. -/

namespace Sys2Proof.Machine

/-! Events and results. -/

/-- `emit(e)` (R12). -/
def emit (e : Event) (s : State) : State := { s with trace := s.trace ++ [e] }

/-- `Delay(d)`: an event and nothing else (R12, R15). -/
def delay (d : Delay) (s : State) : State := emit (.delay d) s

/-- `S.result <- code(r)`. -/
def setResult (r : ResultCode) (s : State) : State := { s with result := r.code }

/-- How a body of an operation ends: normally, or by `raise` (R12). -/
inductive Ran where
  | done (s : State)
  | raised (s : State)
  deriving DecidableEq, Repr

/-- `raise R` (R12, R201): the result code is written, nothing before it is undone, and no later step runs. It is the
block's only exception; there is no trap entry and no return (R206, R207). -/
def raise (r : ResultCode) (s : State) : Ran := .raised (setResult r s)

/-- The next step of a body, which does not run after a `raise`. -/
def Ran.andThen : Ran → (State → Ran) → Ran
  | .done s, f => f s
  | .raised s, _ => .raised s

/-- The state a body ends in. -/
def Ran.state : Ran → State
  | .done s => s
  | .raised s => s

/-- The sequencer becomes idle at the end of an operation (R51). -/
def endOp (s : State) : Host.Outcome State Fault Refusal := .next { s with phase := .idle }

/-- The working state is unspecified once an operation that used it has ended (R31, R50, log entry 7). -/
def forgetWork (s : State) : State :=
  { s with work := Config.freeWork s.env.draws, env := { s.env with draws := s.env.draws + 1 } }

/-- The end of an operation that used the working state. -/
def endWork (s : State) : Host.Outcome State Fault Refusal := endOp (forgetWork s)

/-! The chip-select lines (R103, R106). -/

def dropM (s : State) : State := emit (.line .csM (s.cfg.csLevel false)) { s with csm := false }

def dropS (s : State) : State := emit (.line .csS (s.cfg.csLevel false)) { s with css := false }

def raiseM (s : State) : State := emit (.line .csM (s.cfg.csLevel true)) { s with csm := true }

def raiseS (s : State) : State := emit (.line .csS (s.cfg.csLevel true)) { s with css := true }

/-- `bus_sel(t)`: the asserted set becomes exactly `t` (R103). -/
def busSel (t : Target) (s : State) : State :=
  let s := if s.csm && !t.hasM then dropM s else s
  let s := if s.css && !t.hasS then dropS s else s
  let s := if t.hasM && !s.csm then raiseM s else s
  if t.hasS && !s.css then raiseS s else s

/-- `bus_desel(t)`: the lines in `t` are released, the others left (R106). -/
def busDesel (t : Target) (s : State) : State :=
  let s := if t.hasM && s.csm then dropM s else s
  if t.hasS && s.css then dropS s else s

/-! Byte transfers. -/

/-- `xfer_byte(b)` (R109). -/
def xferByte (b : Byte) (s : State) : State := emit (.xfer s.dc s.sel b) s

/-- `xfer_byte` of each byte in order (R115). -/
def xferBytes : List Byte → State → State
  | [], s => s
  | b :: bs, s => xferBytes bs (xferByte b s)

/-- `bus_cmd(b)` (R112). -/
def busCmd (b : Byte) (s : State) : State := xferByte b { s with dc := s.cfg.dcCmd }

/-- `bus_data(b)` (R114). -/
def busData (b : Byte) (s : State) : State := xferByte b { s with dc := s.cfg.dcData }

/-- `bus_block(bs)`; with no bytes it still drives DC (R115). -/
def busBlock (bs : List Byte) (s : State) : State := xferBytes bs { s with dc := s.cfg.dcData }

/-- `xfer(t, c, ps)`: one panel transaction (R118). -/
def xfer (t : Target) (c : Byte) (ps : List Byte) (s : State) : State :=
  let s := busCmd c (busSel t s)
  let s := if ps.isEmpty then s else busBlock ps s
  busDesel t s

/-! The reset pulse and the init table (R130, R136). -/

/-- One step of the reset sequence, number `i`. -/
def resetStep (i : Nat) (st : ResetStep) (s : State) : State :=
  delay (.resetStep i) (emit (.line .rst st.level) { s with rst := st.level })

/-- The steps of the reset sequence from number `i` on. -/
def resetSteps : Nat → List ResetStep → State → State
  | _, [], s => s
  | i, st :: rest, s => resetSteps (i + 1) rest (resetStep i st s)

/-- `reset_sequence()` (R130). -/
def resetSequence (s : State) : State := resetSteps 0 s.cfg.resetSeq s

/-- The transactions of the init table from entry `i` on, in its order (R138). -/
def initEntries : Nat → List InitEntry → State → State
  | _, [], s => s
  | i, e :: rest, s =>
    initEntries (i + 1) rest (xfer e.target e.cmd e.params { s with work := { s.work with initIdx := i } })

/-! The busy-wait (R132, R133). -/

/-- The panel agent's next BUSY level: a pending one, else a free value (R132, log entry 3). -/
def drawBusy (s : State) : State :=
  match s.env.busyIn with
  | v :: rest => { s with busyLast := v, env := { s.env with busyIn := rest } }
  | [] => { s with busyLast := Config.freeBusy s.env.draws, env := { s.env with draws := s.env.draws + 1 } }

/-- `SampleBusy()`; the level it returns is `busyLast` (R132). -/
def sampleBusy (s : State) : State :=
  let s := drawBusy s
  emit (.sample s.busyLast) { s with busyValid := true }

/-- How a busy-wait ends (R133). -/
inductive Wait where
  | released
  | timedOut
  deriving DecidableEq, Repr

/-- The polls of a busy-wait that may still take `n` samples (R133). -/
def pollBusy : Nat → State → Wait × State
  | 0, s => (.timedOut, { s with tout := true, tocnt := saturatingSucc s.tocnt })
  | n + 1, s =>
    let s := emit .keepalive (sampleBusy s)
    if s.busyLast ≠ s.cfg.busyActive then (.released, { delay .busySettle s with tout := false })
    else pollBusy n (delay .poll s)

/-- `busy_wait()` (R133). -/
def busyWait (s : State) : Wait × State := pollBusy s.cfg.nPolls s

/-! The storage read port (R61 to R64). -/

/-- The storage agent's answer to SizeQuery: a pending one, else a free value (R61, log entry 4). -/
def drawOpen (s : State) : Option (List Byte) × State :=
  match s.env.openIn with
  | r :: rest => (r, { s with env := { s.env with openIn := rest } })
  | [] => (Config.freeFile s.env.draws, { s with env := { s.env with draws := s.env.draws + 1 } })

/-- `SizeQuery()`: opens the file when there is one; the size it returns is the open file's (R61). -/
def sizeQuery (s : State) : State :=
  let r := (drawOpen s).1
  emit (.sopen (r.map List.length)) { (drawOpen s).2 with openFile := r.map StoredFile.ofBytes }

/-- `SCLOSE`: the open file is closed (R61). -/
def closeFile (s : State) : State := emit .sclose { s with openFile := none }

/-- The storage agent's way of answering the next read: a pending one, else a free value (R64, log entry 5). -/
def drawRead (s : State) : ReadReply × State :=
  match s.env.readIn with
  | r :: rest => (r, { s with env := { s.env with readIn := rest } })
  | [] => (Config.freeRead s.env.draws, { s with env := { s.env with draws := s.env.draws + 1 } })

/-- The open file's bytes a read meets (R64); no read is made with no file open. -/
def fileSlice (s : State) (off n : Nat) : List Byte :=
  match s.openFile with
  | some f => f.slice off n
  | none => []

/-- `MemRead(off, n)`; the bytes it returns are left in the row buffer (R62). -/
def memRead (off n : Nat) (s : State) : State :=
  let d := (drawRead s).1.bytes n (fileSlice s off n)
  let s := (drawRead s).2
  emit (.sread off n d.length) { s with work := { s.work with rowbuf := d } }

/-- `Seek(0)` (R63). -/
def seekStart (s : State) : State := emit (.sseek 0) { s with work := { s.work with cur := 0 } }

/-- `cur <- cur + n` (R62). -/
def advanceCur (n : Nat) (s : State) : State := { s with work := { s.work with cur := s.work.cur + n } }

/-- `abort_pass(t, R)` (R165). -/
def abortPass (t : Target) (r : ResultCode) (s : State) : Ran := raise r (closeFile (busDesel t s))

/-- The shortness check after a half-row read; a read that is not short moves the cursor (R62, R161, R164, R165). -/
def checkHalf (t : Target) (r : ResultCode) (s : State) : Ran :=
  if s.work.rowbuf.length < s.cfg.half then abortPass t r s else .done (advanceCur s.cfg.half s)

/-- One half-row read at the cursor, checked for shortness. -/
def readHalf (t : Target) (r : ResultCode) (s : State) : Ran := checkHalf t r (memRead s.work.cur s.cfg.half s)

/-- `keepalive_point(r)` (R163). -/
def keepalivePoint (r : Nat) (s : State) : State := if (r + 1) % s.cfg.yieldRows = 0 then emit .keepalive s else s

/-- `S.rprog <- (p, n)` (R41). -/
def setProgress (p : Pass) (n : Nat) (s : State) : State := { s with rprog := { pass := p, rows := BitVec.ofNat 11 n } }

/-! What the host does to the block from outside an operation. -/

/-- The sequencer takes an operation of `n` words: `pc` moves past them before the operation's effects (R30, R51). -/
def takeOp (i : Instr) (s : State) : State := { s with pc := s.pc + i.words, phase := .executing i 0 }

/-- Block reset (R230, R231), at any time: every field of the block takes its reset value and no event is emitted.
The configuration, the host's program and the external agents are outside the block (log entry 13). -/
def blockReset (s : State) : State :=
  { State.resetWith s.cfg with
    prog := s.prog
    work := Config.freeWork s.env.draws
    env := { s.env with draws := s.env.draws + 1 } }

/-- The host supplies a program (R30); one whose BLOCK runs past the end is refused (U20, log entry 10). -/
def State.load (p : List Word) (s : State) : Host.Outcome State Fault Refusal :=
  if programOk p then .next { s with prog := p, pc := 0 } else .refused .truncatedBlock

end Sys2Proof.Machine
end

