-- ==== Sys2Proof/Machine/Framing.lean ====
section
/-! DEFINITION. The PanelBus operations NOP, SEL, DESEL, CMD, DATA, BLOCK (spec/40_panelbus.md). -/

namespace Sys2Proof.Machine

/-- NOP: no effect, whatever the immediate (R88, R100). -/
def execNop (_imm : Byte) (s : State) : Host.Outcome State Fault Refusal := endOp s

/-- SEL Master (R102). -/
def execSelM (s : State) : Host.Outcome State Fault Refusal := endOp (setResult .ok (busSel .master s))

/-- SEL Slave (R102). -/
def execSelS (s : State) : Host.Outcome State Fault Refusal := endOp (setResult .ok (busSel .slave s))

/-- SEL Both (R102). -/
def execSelBoth (s : State) : Host.Outcome State Fault Refusal := endOp (setResult .ok (busSel .both s))

/-- DESEL Master (R105). -/
def execDeselM (s : State) : Host.Outcome State Fault Refusal := endOp (setResult .ok (busDesel .master s))

/-- DESEL Slave (R105). -/
def execDeselS (s : State) : Host.Outcome State Fault Refusal := endOp (setResult .ok (busDesel .slave s))

/-- DESEL Both (R105). -/
def execDeselBoth (s : State) : Host.Outcome State Fault Refusal := endOp (setResult .ok (busDesel .both s))

/-- Raw transfers clear `render_ok` and touch no other bookkeeping (R111). -/
def afterRaw (s : State) : State := setResult .ok { s with renderOk := false }

/-- CMD (R110). -/
def execCmd (c : Byte) (s : State) : Host.Outcome State Fault Refusal := endOp (afterRaw (busCmd c s))

/-- DATA (R113). -/
def execData (d : Byte) (s : State) : Host.Outcome State Fault Refusal := endOp (afterRaw (busData d s))

/-- BLOCK (R116). -/
def execBlock (payload : List Byte) (s : State) : Host.Outcome State Fault Refusal :=
  endOp (afterRaw (busBlock payload s))

end Sys2Proof.Machine
end

