-- ==== Sys2Proof/Machine/Initializer.lean ====
section
/-! DEFINITION. The PanelInitializer operations RSTP, BWAIT, INIT, CYCLE (spec/41_initializer.md). -/

namespace Sys2Proof.Machine

/-- `initialized`, `render_ok` and `power` as a reset of the panel leaves them (R131, R136). -/
def clearPanelState (s : State) : State := { s with initialized := false, renderOk := false, power := .off }

/-- RSTP (R131). -/
def execRstp (s : State) : Host.Outcome State Fault Refusal :=
  endOp (setResult .ok (clearPanelState (resetSequence s)))

/-- BUSY_TIMEOUT if a wait timed out, else OK (R134, R139). -/
def waitResult (timedOut : Bool) : ResultCode := if timedOut then .busyTimeout else .ok

/-- BWAIT (R134). -/
def execBwait (s : State) : Host.Outcome State Fault Refusal :=
  let o := busyWait s
  endOp (setResult (waitResult (o.1 = .timedOut)) o.2)

/-- `init_body()` (R136). -/
def initBody (s : State) : State :=
  let s := resetSequence (clearPanelState s)
  let s := initEntries 0 s.cfg.initTable s
  { s with initialized := true }

/-- INIT (R136). -/
def execInit (s : State) : Host.Outcome State Fault Refusal := endWork (setResult .ok (initBody s))

/-- The command byte, the parameters and the power state of each step of the power cycle (R139, R140). -/
def cycleCommand (c : Config) : CyclePhase → Byte × List Byte × Power
  | .powerOn => (c.cmdPon, [], .poweredOn)
  | .refresh => (c.cmdDrf, [c.drfParam], .refreshing)
  | .powerOff => (c.cmdPof, [c.pofParam], .off)

/-- One command of the power cycle: its transaction to CYCLE_TARGET, and then the power state it enters (R140, R143). -/
def powerCommand (ph : CyclePhase) (s : State) : State :=
  let k := cycleCommand s.cfg ph
  { xfer s.cfg.cycleTarget k.1 k.2.1 { s with work := { s.work with cyclePhase := ph } } with power := k.2.2 }

/-- One command and the busy-wait in the state it enters (R140). -/
def powerStep (ph : CyclePhase) (s : State) : Wait × State := busyWait (powerCommand ph s)

/-- `cycle_body()` (R139): it runs from start to finish whether or not a wait times out (R141, R142). -/
def cycleBody (s : State) : State :=
  let o1 := powerStep .powerOn s
  let o2 := powerStep .refresh (delay .ponSettle o1.2)
  let o3 := powerStep .powerOff o2.2
  setResult (waitResult (o1.1 = .timedOut || o2.1 = .timedOut || o3.1 = .timedOut)) o3.2

/-- CYCLE and its preconditions, in their order (R139, R203). -/
def cycleChecked (s : State) : Ran :=
  if !s.initialized then raise .notInitialized s
  else if !s.renderOk then raise .noValidRender s
  else .done (cycleBody s)

/-- CYCLE (R139). -/
def execCycle (s : State) : Host.Outcome State Fault Refusal := endWork (cycleChecked s).state

end Sys2Proof.Machine
end

