-- ==== Sys2Proof/Machine/Renderer.lean ====
section
/-! DEFINITION. The Renderer operations RENDER and DISPLAY (spec/42_renderer.md). -/

namespace Sys2Proof.Machine

/-- The working state at the start of a row. -/
def startRow (r : Nat) (s : State) : State := { s with work := { s.work with row := r } }

/-- The end of row `r` of a pass: progress and the keep-alive point (R161, R164). -/
def endRow (p : Pass) (r : Nat) (s : State) : State := keepalivePoint r (setProgress p (r + 1) s)

/-- Row `r` of the master pass: the master half is streamed, the slave half read and discarded (R161). -/
def masterRow (r : Nat) (s : State) : Ran :=
  (readHalf .master .shortReadMaster (startRow r s)).andThen fun s =>
    (readHalf .master .shortReadMaster (busBlock s.work.rowbuf s)).andThen fun s => .done (endRow .master r s)

/-- Row `r` of the slave pass: the master half is read and discarded, the slave half streamed (R164). -/
def slaveRow (r : Nat) (s : State) : Ran :=
  (readHalf .slave .shortReadSlave (startRow r s)).andThen fun s =>
    (readHalf .slave .shortReadSlave s).andThen fun s => .done (endRow .slave r (busBlock s.work.rowbuf s))

/-- `n` rows from row `r` on, until one raises. -/
def rowsFrom (row : Nat → State → Ran) : Nat → Nat → State → Ran
  | 0, _, s => .done s
  | n + 1, r, s => (row r s).andThen (rowsFrom row n (r + 1))

/-- The start of the master pass, up to its first row (R161). -/
def masterStart (s : State) : State :=
  busCmd s.cfg.cmdDtm (busSel .master { s with work := { s.work with cur := 0, pass := .master } })

/-- `master_pass()` (R161). -/
def masterPass (s : State) : Ran :=
  (rowsFrom masterRow s.cfg.h 0 (masterStart s)).andThen fun s => .done (busDesel .master s)

/-- The start of the slave pass, up to its first row (R164). -/
def slaveStart (s : State) : State :=
  setProgress .slave 0
    (busCmd s.cfg.cmdDtm (busSel .slave (seekStart { s with work := { s.work with pass := .slave } })))

/-- `slave_pass()` (R164). -/
def slavePass (s : State) : Ran :=
  (rowsFrom slaveRow s.cfg.h 0 (slaveStart s)).andThen fun s => .done (busDesel .slave s)

/-- The two passes over the open file (R160). -/
def renderPasses (s : State) : Ran :=
  (masterPass s).andThen fun s =>
    (slavePass (delay .passSettle s)).andThen fun s => .done { closeFile s with renderOk := true }

/-- The start of a render: the bookkeeping is cleared and the stored file is opened (R160). -/
def startRender (s : State) : State := sizeQuery (setProgress .master 0 { s with renderOk := false })

/-- The render of what was opened: an absent file, and then a file of another size, is NO_IMAGE before any bus event
(R66, R160, R203). -/
def renderOpened (s : State) : Ran :=
  match s.openFile with
  | none => raise .noImage s
  | some f => if f.size ≠ s.cfg.fbSize then raise .noImage (closeFile s) else renderPasses s

/-- `render_body()` (R160). -/
def renderBody (s : State) : Ran := renderOpened (startRender s)

/-- RENDER and its precondition (R160). -/
def renderChecked (s : State) : Ran :=
  if !s.initialized then raise .notInitialized s
  else (renderBody s).andThen fun s => .done (setResult .ok s)

/-- RENDER (R160). -/
def execRender (s : State) : Host.Outcome State Fault Refusal := endWork (renderChecked s).state

/-- DISPLAY's body (R170): a lazy INIT, the render, and the cycle when the render did not raise. -/
def displayBody (s : State) : Ran :=
  (renderBody (if s.initialized then s else initBody s)).andThen fun s => .done (cycleBody s)

/-- DISPLAY (R170). -/
def execDisplay (s : State) : Host.Outcome State Fault Refusal := endWork (displayBody s).state

end Sys2Proof.Machine
end

