-- ==== Sys2Proof/Machine/Status.lean ====
section
/-! DEFINITION. RDSTAT and illegal words (spec/43_status.md). -/

namespace Sys2Proof.Machine

/-- RDSTAT: the status word goes to `rdata` and to the host; `result` is unchanged (R190). -/
def execRdstat (k : Byte) (s : State) : Host.Outcome State Fault Refusal :=
  let v := statusValue k s
  endOp (emit (.hostread v) { s with rdata := v })

/-- An illegal word, one word long: no event, and ILLEGAL_OP (R192). -/
def execIllegal (s : State) : Host.Outcome State Fault Refusal :=
  endOp (setResult .illegalOp { s with pc := s.pc + 1 })

end Sys2Proof.Machine
end

