-- ==== Sys2Proof/Machine/Dispatch.lean ====
section
/-! DEFINITION. The dispatch: one arm per operation of spec/opcode_table.json. -/

namespace Sys2Proof.Machine

/-- What an operation does to the state in which the sequencer has taken it. -/
def exec (i : Instr) (s : State) : Host.Outcome State Fault Refusal :=
  match i with
  | .nop imm => Sys2Proof.Machine.execNop imm s
  | .selM => Sys2Proof.Machine.execSelM s
  | .selS => Sys2Proof.Machine.execSelS s
  | .selBoth => Sys2Proof.Machine.execSelBoth s
  | .deselM => Sys2Proof.Machine.execDeselM s
  | .deselS => Sys2Proof.Machine.execDeselS s
  | .deselBoth => Sys2Proof.Machine.execDeselBoth s
  | .cmd c => Sys2Proof.Machine.execCmd c s
  | .data d => Sys2Proof.Machine.execData d s
  | .block payload => Sys2Proof.Machine.execBlock payload s
  | .rstp => Sys2Proof.Machine.execRstp s
  | .bwait => Sys2Proof.Machine.execBwait s
  | .init => Sys2Proof.Machine.execInit s
  | .render => Sys2Proof.Machine.execRender s
  | .cycle => Sys2Proof.Machine.execCycle s
  | .display => Sys2Proof.Machine.execDisplay s
  | .rdstat k => Sys2Proof.Machine.execRdstat k s

end Sys2Proof.Machine
end

