-- ==== Sys2Proof/Machine/Step.lean ====
section
/-! DEFINITION. The step: the sequencer takes the word at `pc` and executes its operation (spec/10_state.md R30, R51). -/

namespace Sys2Proof.Machine

/-- What the decoder reads at `pc`. -/
def State.fetch (s : State) : Decoded := decode (s.prog.drop s.pc)

/-- One operation. In Idle the sequencer takes the operation at `pc` (R30, R51); with no word left it stays idle (log
entry 9). -/
def step (s : State) : Host.Outcome State Fault Refusal :=
  if s.phase ≠ .idle then .refused .midOperation
  else if !s.cfg.valid then .refused .badConfig
  else
    match s.fetch with
    | .empty => .next s
    | .truncated => .refused .truncatedBlock
    | .illegal _ _ => execIllegal s
    | .op i _ => exec i (takeOp i s)

/-- The words `ws` in place of those at `pc` and after it; a shorter program is first filled up with `0x0000`. -/
def placeWords (p : List Word) (pc : Nat) (ws : List Word) : List Word :=
  p.take pc ++ List.replicate (pc - p.length) 0x0000#16 ++ ws ++ p.drop (pc + ws.length)

/-- The state with one opcode-table row's instruction at `pc`, where the idle sequencer takes its next word (log entry
12). -/
def State.withFetchWord (s : State) (nbits w : Nat) : State :=
  { s with prog := placeWords s.prog s.pc (tableWords nbits w), phase := .idle }

end Sys2Proof.Machine
end

