-- ==== Sys2Proof/Machine/Assembler.lean ====
section
/-! DEFINITION. The assembler's syntax and the pseudo-instruction xfer (spec/30_encoding.md R94, R95). -/

namespace Sys2Proof.Machine

/-- `xfer t, c, p0, .., pk` (R95): raw operations; the BLOCK is left out when there are no parameters. -/
def xferPseudo (t : Target) (c : Byte) (ps : List Byte) : List Instr :=
  [selInstr t, .cmd c] ++ (if ps.isEmpty then [] else [.block ps]) ++ [deselInstr t]

/-- Blanks between the parts of a line (log entry 16). -/
def isBlank (c : Char) : Bool := c == ' ' || c == '\t' || c == '\r'

/-- A part of a line without the blanks around it. -/
def trimBlanks (cs : List Char) : List Char :=
  ((cs.dropWhile isBlank).reverse.dropWhile isBlank).reverse

/-- The parts of a line between separators. -/
def splitChars (sep : Char) : List Char → List (List Char)
  | [] => [[]]
  | c :: cs =>
    if c == sep then [] :: splitChars sep cs
    else
      match splitChars sep cs with
      | [] => [[c]]
      | w :: ws => (c :: w) :: ws

/-- The value of a digit in a base of at most 16. -/
def digitOf (base : Nat) (c : Char) : Option Nat :=
  let n := c.toNat
  let v :=
    if 48 ≤ n ∧ n ≤ 57 then n - 48
    else if 97 ≤ n ∧ n ≤ 102 then n - 87
    else if 65 ≤ n ∧ n ≤ 70 then n - 55
    else 16
  if v < base then some v else none

/-- The number a run of digits stands for, above `acc` already read. -/
def digitsFrom (base : Nat) : Nat → List Char → Option Nat
  | acc, [] => some acc
  | acc, c :: cs =>
    match digitOf base c with
    | some d => digitsFrom base (acc * base + d) cs
    | none => none

/-- A number in decimal or `0x` hexadecimal (R94); no digits, or another character among them, is refused (log entry 16). -/
def parseNumber : List Char → Option Nat
  | [] => none
  | ['0', 'x'] => none
  | '0' :: 'x' :: ds => digitsFrom 16 0 ds
  | ds => digitsFrom 10 0 ds

/-- An `imm8`; above 255 it is refused (R94). -/
def parseImm (cs : List Char) : Option Byte :=
  match parseNumber cs with
  | some n => if n ≤ 255 then some (BitVec.ofNat 8 n) else none
  | none => none

/-- The bytes of an operand list. -/
def parseImms : List (List Char) → Option (List Byte)
  | [] => some []
  | w :: ws =>
    match parseImm w, parseImms ws with
    | some b, some bs => some (b :: bs)
    | _, _ => none

/-- A target `m`, `s` or `both`; another is refused (R94). -/
def parseTarget (cs : List Char) : Option Target :=
  if cs = "m".toList then some .master
  else if cs = "s".toList then some .slave
  else if cs = "both".toList then some .both
  else none

/-- A status index, by number or by name (R94). -/
def parseStatus (cs : List Char) : Option Byte :=
  if cs = "STAT".toList then some 0x00#8
  else if cs = "RESULT".toList then some 0x01#8
  else if cs = "TOCNT".toList then some 0x02#8
  else if cs = "LINES".toList then some 0x03#8
  else if cs = "RPROG".toList then some 0x04#8
  else parseImm cs

/-- An operation with its operands (R94, R95). DESIGN CHOICE: a bare `nop` has the immediate `0x00`, where R94's row gives none
(log entry 20); any other mnemonic or number of operands than R94's is refused (log entry 16). -/
def parseOp (m : List Char) (args : List (List Char)) : Option (List Instr) :=
  if m = "nop".toList then
    match args with
    | [] => some [.nop 0x00#8]
    | [a] => (parseImm a).map fun b => [.nop b]
    | _ => none
  else if m = "sel".toList then
    match args with
    | [a] => (parseTarget a).map fun t => [selInstr t]
    | _ => none
  else if m = "desel".toList then
    match args with
    | [a] => (parseTarget a).map fun t => [deselInstr t]
    | _ => none
  else if m = "cmd".toList then
    match args with
    | [a] => (parseImm a).map fun b => [.cmd b]
    | _ => none
  else if m = "data".toList then
    match args with
    | [a] => (parseImm a).map fun b => [.data b]
    | _ => none
  else if m = "block".toList then
    (parseImms args).bind fun bs => if bs.length ≤ 65535 then some [.block bs] else none
  else if m = "rdstat".toList then
    match args with
    | [a] => (parseStatus a).map fun k => [.rdstat k]
    | _ => none
  else if m = "xfer".toList then
    match args with
    | t :: c :: ps =>
      match parseTarget t, parseImm c, parseImms ps with
      | some t, some c, some ps => if ps.length ≤ 65535 then some (xferPseudo t c ps) else none
      | _, _, _ => none
    | _ => none
  else if !args.isEmpty then none
  else if m = "rstp".toList then some [.rstp]
  else if m = "bwait".toList then some [.bwait]
  else if m = "init".toList then some [.init]
  else if m = "render".toList then some [.render]
  else if m = "cycle".toList then some [.cycle]
  else if m = "display".toList then some [.display]
  else none

/-- One line: a comment runs from `;` to its end, and a line with nothing else on it is no operation (R94). -/
def parseLine (line : List Char) : Option (List Instr) :=
  let body := trimBlanks (line.takeWhile fun c => c != ';')
  let mnemonic := body.takeWhile fun c => !isBlank c
  let operands := trimBlanks (body.drop mnemonic.length)
  if body.isEmpty then some []
  else parseOp mnemonic (if operands.isEmpty then [] else (splitChars ',' operands).map trimBlanks)

/-- The words of a source text, one operation per line, or `none` where the assembler refuses it. -/
def assembleLines : List (List Char) → Option (List Word)
  | [] => some []
  | l :: ls =>
    match parseLine l, assembleLines ls with
    | some is, some ws => some (encodeAll is ++ ws)
    | _, _ => none

/-- The assembler (R94). -/
def assemble (source : String) : Option (List Word) := assembleLines (splitChars '\n' source.toList)

end Sys2Proof.Machine
end

