-- ==== Sys2Proof/Machine/Traces.lean ====
section
/-! DEFINITION. The event sequences the rules give for their operations, written as closed forms that the statements name:
what each rule's pseudocode emits, without the state that carries it. -/

namespace Sys2Proof

/-- The select set that is a target (R13). -/
def Target.sel (t : Target) : Sel := { m := t.hasM, s := t.hasS }

namespace Machine

/-- R103, from lines at `csm` and `css`: deassertions before assertions, master before slave, one event per change. -/
def selEvents (c : Config) (csm css : Bool) (t : Target) : List Event :=
  (if csm && !t.hasM then [.line .csM c.csActive.flip] else [])
    ++ (if css && !t.hasS then [.line .csS c.csActive.flip] else [])
    ++ (if t.hasM && !csm then [.line .csM c.csActive] else [])
    ++ (if t.hasS && !css then [.line .csS c.csActive] else [])

/-- R106, from lines at `csm` and `css`. -/
def deselEvents (c : Config) (csm css : Bool) (t : Target) : List Event :=
  (if t.hasM && csm then [.line .csM c.csActive.flip] else [])
    ++ (if t.hasS && css then [.line .csS c.csActive.flip] else [])

/-- One transaction (R118), from lines at `csm` and `css`. -/
def xferEvents (c : Config) (csm css : Bool) (t : Target) (cmd : Byte) (ps : List Byte) : List Event :=
  selEvents c csm css t ++ [.xfer c.dcCmd t.sel cmd] ++ ps.map (fun b => .xfer c.dcData t.sel b)
    ++ deselEvents c t.hasM t.hasS t

/-- The reset sequence's steps from number `i` on (R130). -/
def resetEventsFrom : Nat → List ResetStep → List Event
  | _, [] => []
  | i, st :: rest => .line .rst st.level :: .delay (.resetStep i) :: resetEventsFrom (i + 1) rest

/-- The reset sequence (R130). -/
def resetEvents (c : Config) : List Event := resetEventsFrom 0 c.resetSeq

/-- The transactions of an init table (R136, R138); after the first one no select is asserted (R118). -/
def tableEvents (c : Config) (csm css : Bool) : List InitEntry → List Event
  | [] => []
  | e :: es => xferEvents c csm css e.target e.cmd e.params ++ tableEvents c false false es

/-- INIT (R136). -/
def initEvents (c : Config) (csm css : Bool) : List Event := resetEvents c ++ tableEvents c csm css c.initTable

/-- The polls of a busy-wait that samples these levels (R133). -/
def pollEvents (c : Config) : List Level → List Event
  | [] => []
  | v :: vs =>
    .sample v :: .keepalive :: .delay (if v ≠ c.busyActive then .busySettle else .poll) :: pollEvents c vs

/-- The levels one busy-wait samples and the outcome they give (R133): busy until the first idle one, of at most N_POLLS
samples, or N_POLLS busy ones. -/
def WaitScript (c : Config) (levels : List Level) : Wait → Prop
  | .released =>
    ∃ k v, k < c.nPolls ∧ v ≠ c.busyActive ∧ levels = List.replicate k c.busyActive ++ [v]
  | .timedOut => levels = List.replicate c.nPolls c.busyActive

/-- The power cycle (R139), from lines at `csm` and `css`, with the levels of its three waits. -/
def cycleEvents (c : Config) (csm css : Bool) (w1 w2 w3 : List Level) : List Event :=
  xferEvents c csm css c.cycleTarget c.cmdPon [] ++ pollEvents c w1 ++ [.delay .ponSettle]
    ++ xferEvents c false false c.cycleTarget c.cmdDrf [c.drfParam] ++ pollEvents c w2
    ++ xferEvents c false false c.cycleTarget c.cmdPof [c.pofParam] ++ pollEvents c w3

/-- The bytes of a file from offset `off`, at most `n` of them. -/
def fileBytes (F : List Byte) (off n : Nat) : List Byte := (F.drop off).take n

/-- The master half of row `r` (R65). -/
def masterHalf (c : Config) (F : List Byte) (r : Nat) : List Byte := fileBytes F (r * c.bpr) c.half

/-- The slave half of row `r` (R65). -/
def slaveHalf (c : Config) (F : List Byte) (r : Nat) : List Byte := fileBytes F (r * c.bpr + c.half) c.half

/-- The keep-alive point after row `r` (R163). -/
def keepaliveEvents (c : Config) (r : Nat) : List Event := if (r + 1) % c.yieldRows = 0 then [.keepalive] else []

/-- Row `r` of a master pass (R161). -/
def masterRowEvents (c : Config) (F : List Byte) (r : Nat) : List Event :=
  [.sread (r * c.bpr) c.half c.half] ++ (masterHalf c F r).map (fun b => .xfer c.dcData Target.master.sel b)
    ++ [.sread (r * c.bpr + c.half) c.half c.half] ++ keepaliveEvents c r

/-- Row `r` of a slave pass (R164). -/
def slaveRowEvents (c : Config) (F : List Byte) (r : Nat) : List Event :=
  [.sread (r * c.bpr) c.half c.half, .sread (r * c.bpr + c.half) c.half c.half]
    ++ (slaveHalf c F r).map (fun b => .xfer c.dcData Target.slave.sel b) ++ keepaliveEvents c r

/-- The first `n` rows of a pass. -/
def rowEvents (row : Nat → List Event) (n : Nat) : List Event := (List.range n).flatMap row

/-- A completed master pass up to the release of its select (R161). -/
def masterPassEvents (c : Config) (csm css : Bool) (F : List Byte) : List Event :=
  selEvents c csm css .master ++ [.xfer c.dcCmd Target.master.sel c.cmdDtm]
    ++ rowEvents (masterRowEvents c F) c.h ++ [.line .csM c.csActive.flip]

/-- A completed slave pass (R164); no select is asserted when it starts. -/
def slavePassEvents (c : Config) (F : List Byte) : List Event :=
  [.sseek 0] ++ selEvents c false false .slave ++ [.xfer c.dcCmd Target.slave.sel c.cmdDtm]
    ++ rowEvents (slaveRowEvents c F) c.h ++ [.line .csS c.csActive.flip]

/-- A completed render of the file `F` (R160), from lines at `csm` and `css`. -/
def renderEvents (c : Config) (csm css : Bool) (F : List Byte) : List Event :=
  [.sopen (some F.length)] ++ masterPassEvents c csm css F ++ [.delay .passSettle] ++ slavePassEvents c F ++ [.sclose]

/-- Whether a render may emit this event between its SOPEN and its SCLOSE (R160 to R165): a chip-select change, the
data-transfer command, a data byte, a read, the rewind, a keep-alive, or the delay between the passes. -/
def passEvent (c : Config) : Event → Bool
  | .line l _ => decide (l ≠ .rst)
  | .xfer dc _ b => decide (dc = c.dcData) || (decide (dc = c.dcCmd) && decide (b = c.cmdDtm))
  | .delay d => decide (d = .passSettle)
  | .sseek o => decide (o = 0)
  | .sread _ _ _ | .keepalive => true
  | .sample _ | .sopen _ | .sclose | .hostread _ => false

/-- The concatenation of the first `n` rows' master halves, in row order (R162). -/
def masterStream (c : Config) (F : List Byte) (n : Nat) : List Byte := (List.range n).flatMap (masterHalf c F)

/-- The concatenation of the first `n` rows' slave halves, in row order (R164). -/
def slaveStream (c : Config) (F : List Byte) (n : Nat) : List Byte := (List.range n).flatMap (slaveHalf c F)

/-- The row-by-row interleaving of two streams of half-rows of `half` bytes, for `n` rows (R166). -/
def interleave (half n : Nat) (m s : List Byte) : List Byte :=
  (List.range n).flatMap fun r => fileBytes m (r * half) half ++ fileBytes s (r * half) half

end Machine

end Sys2Proof
end

