-- ==== Sys2Proof/Machine/Wire.lean ====
section
/-! DEFINITION. The panel's side of the trace: a transfer on the lines (spec/30_encoding.md R90), which controller receives
a byte (spec/40_panelbus.md R117), and counts of events (spec/42_renderer.md R169). -/

namespace Sys2Proof.Machine

/-- One byte on the panel's lines: the discriminator, the two chip-selects, and the bits in the order they are clocked
out (R90). Clock polarity, phase and rate are OPEN and left out. -/
structure WireByte where
  dc : Level
  csM : Level
  csS : Level
  bits : List Level
  deriving DecidableEq, Repr

/-- Bit `i` of a byte as a level. -/
def bitLevel (b : Byte) (i : Nat) : Level := if b.getLsbD i then .high else .low

/-- The bits of a byte in the order they go onto the serial line (R90). -/
def wireBits (o : BitOrder) (b : Byte) : List Level :=
  match o with
  | .msbFirst => [7, 6, 5, 4, 3, 2, 1, 0].map (bitLevel b)
  | .lsbFirst => [0, 1, 2, 3, 4, 5, 6, 7].map (bitLevel b)

/-- A transfer on the lines, with the chip-selects at their electrical levels (R90, R104). -/
def wireByte (c : Config) : Event → Option WireByte
  | .xfer dc sel b => some { dc := dc, csM := c.csLevel sel.m, csS := c.csLevel sel.s, bits := wireBits c.bitOrder b }
  | .line _ _ | .sample _ | .keepalive | .delay _ | .sopen _ | .sseek _ | .sread _ _ _ | .sclose | .hostread _ => none

/-- The byte a controller receives by an event: that of a transfer at which its select is asserted (R117). -/
def receives (h : Half) : Event → Option Byte
  | .xfer _ sel b => if sel.has h then some b else none
  | .line _ _ | .sample _ | .keepalive | .delay _ | .sopen _ | .sseek _ | .sread _ _ _ | .sclose | .hostread _ => none

/-- The bytes a controller receives, in order. -/
def receivedBy (h : Half) (evs : List Event) : List Byte := evs.filterMap (receives h)

def Event.isXfer : Event → Bool
  | .xfer _ _ _ => true
  | .line _ _ | .sample _ | .keepalive | .delay _ | .sopen _ | .sseek _ | .sread _ _ _ | .sclose | .hostread _ => false

def Event.isKeepalive : Event → Bool
  | .keepalive => true
  | .line _ _ | .xfer _ _ _ | .sample _ | .delay _ | .sopen _ | .sseek _ | .sread _ _ _ | .sclose | .hostread _ => false

def Event.isSample : Event → Bool
  | .sample _ => true
  | .line _ _ | .xfer _ _ _ | .keepalive | .delay _ | .sopen _ | .sseek _ | .sread _ _ _ | .sclose | .hostread _ => false

/-- The storage events other than `SOPEN` (R169). -/
def Event.isStorage : Event → Bool
  | .sseek _ | .sread _ _ _ | .sclose => true
  | .line _ _ | .xfer _ _ _ | .sample _ | .keepalive | .delay _ | .sopen _ | .hostread _ => false

end Sys2Proof.Machine
end

