-- ==== Sys2Proof/Safety.lean ====
section
/-! DEFINITION. What a safe run is: the invariant between operations, and the end of a run. -/

namespace Sys2Proof.Machine

/-- The values `result` is ever given (R200: every other value is never written). -/
def knownResults : List Byte :=
  [0x00#8, 0x01#8, 0x10#8, 0x11#8, 0x12#8, 0x20#8, 0x21#8, 0x30#8]

/-- What holds whenever the sequencer is idle in a run of a well-formed program with an accepted configuration. -/
structure Inv (s : State) : Prop where
  /-- the configuration obeys R7 -/
  cfgValid : s.cfg.valid = true
  /-- the sequencer is idle between operations (R51) -/
  idle : s.phase = .idle
  /-- the rest of the program is well-formed (R30) -/
  progOk : programOk (s.prog.drop s.pc) = true
  /-- the stream pointer is in the program or at its end (R30) -/
  pcInside : s.pc ≤ s.prog.length
  /-- every operation that opened the stored file has closed it (R61) -/
  fileClosed : s.openFile = none
  /-- a power cycle is never left half-way (R140, R142) -/
  powerOff : s.power = .off
  /-- `render_ok` true implies `initialized` true (R37) -/
  renderInit : s.renderOk = true → s.initialized = true
  /-- R200 -/
  resultKnown : s.result ∈ knownResults
  /-- the row count fits its field and the panel (R41) -/
  rowsInPanel : s.rprog.rows.toNat ≤ s.cfg.h
  /-- no BUSY level is recorded before the first sample (R34, R50) -/
  busyUnsampled : s.busyValid = false → s.busyLast = .low
  /-- a timed-out wait has been counted (R38) -/
  timeoutCounted : s.tout = true → s.tocnt ≠ 0#16

/-- Operations executed in a row, each from the state the one before it left. -/
def execAll : List Instr → State → Host.Outcome State Fault Refusal
  | [], s => .next s
  | i :: is, s =>
    match exec i s with
    | .next t => execAll is t
    | .fault r => .fault r
    | .refused r => .refused r

/-- The events of `t` that come after those of `s`. -/
def newEvents (s t : State) : List Event := t.trace.drop s.trace.length

/-- The end of a run: every word has been taken and the sequencer is idle (R247). -/
def State.ended (s : State) : Bool := decide (s.pc = s.prog.length) && decide (s.phase = .idle)

end Sys2Proof.Machine
end

