-- ==== Sys2Proof/Certificates/Slice0/Obligations.lean ====
section
/-! DEFINITION. The statements for the provers. A frame is written `t = { s with f := t.f, … }`: every field not named there
is as it was in `s`. Where a statement names `env`, it speaks of the model's pending answers of the panel and the storage
(log entries 3 to 5); `work` is the working state, unspecified between operations (log entry 7). -/

open Sys2Proof Sys2Proof.Machine

/-! Encoding. -/

/-- spec/30_encoding.md: decoding the words of any well-formed operation, whatever follows them, gives it back with every
operand, and leaves what followed. -/
def Obligations.DecodeInvertsEncode : Prop :=
  ∀ (i : Instr) (rest : List Word), i.wf = true → decode (encode i ++ rest) = .op i rest

/-- spec/10_state.md, spec/30_encoding.md: the words of well-formed operations in a row are a well-formed program. That the
block takes a program by State.load, which puts `pc` at its first word and keeps all else, is the model's choice (log entries
10 and 12). -/
def Obligations.EncodedProgramsAreAccepted : Prop :=
  ∀ (is : List Instr) (s : State), (∀ i ∈ is, i.wf = true) →
    programOk (encodeAll is) = true ∧ State.load (encodeAll is) s = .next { s with prog := encodeAll is, pc := 0 }

/-- spec/30_encoding.md R82, spec/95_test_vectors.md "Encoding and decode": words written out from the table decode to the
operations they stand for. -/
def Obligations.TableWordsDecode : Prop :=
  decode [0x005A] = .op (.nop 0x5A) [] ∧ decode [0x1400] = .op .selM [] ∧ decode [0x2C00] = .op .deselBoth []
    ∧ decode [0x30FF] = .op (.cmd 0xFF) [] ∧ decode [0x5000, 0x0003, 0x0F00, 0x28CD] = .op (.block [0x0F, 0x00, 0x28]) []
    ∧ decode [0x7000] = .op .bwait [] ∧ decode [0x9000] = .op .render [] ∧ decode [0xC004] = .op (.rdstat 0x04) []
    ∧ decode [0xD000] = .illegal 0xD000 []

/-- R87, R192: a word is illegal exactly when RSV is not `00`, OPC is 0xD to 0xF, TGT is not what the operation requires, or
IMM8 is not `0x00` where it must be. An illegal word is taken as one word: no event, ILLEGAL_OP, no other change. -/
def Obligations.IllegalWordsAndTheirEffect : Prop :=
  (∀ w : Word, decodeHead w = .illegal ↔
      rsvOf w ≠ 0b00#2 ∨ 0xD ≤ (opcOf w).toNat
        ∨ ((opcOf w = 0x1#4 ∨ opcOf w = 0x2#4) ∧ tgtOf w = 0b00#2)
        ∨ (¬ (opcOf w = 0x1#4 ∨ opcOf w = 0x2#4) ∧ tgtOf w ≠ 0b00#2)
        ∨ (¬ (opcOf w = 0x0#4 ∨ opcOf w = 0x3#4 ∨ opcOf w = 0x4#4 ∨ opcOf w = 0xC#4) ∧ immOf w ≠ 0x00#8))
    ∧ ∀ (s : State) (w : Word), s.phase = .idle → s.cfg.valid = true → s.prog[s.pc]? = some w →
        decodeHead w = .illegal → step s = .next { s with pc := s.pc + 1, result := 0x30#8 }

/-- R84: BLOCK alone is longer than one word: its word, the byte count, and `ceil(L/2)` payload words; where they run past the
end it is no BLOCK, and the program is ill-formed. R85: payload byte `2i` is the high byte and `2i + 1` the low byte of
payload word `i`; the low byte after an odd payload is ignored, and the assembler writes `0x00` there; the bytes are sent in
index order. -/
def Obligations.BlockPayloadPacking : Prop :=
  (∀ (n : Nat) (ws : List Word), n ≤ 65535 → (n + 1) / 2 ≤ ws.length →
      ∃ bs, decode (0x5000#16 :: BitVec.ofNat 16 n :: ws) = .op (.block bs) (ws.drop ((n + 1) / 2)) ∧ bs.length = n
        ∧ ∀ i, i < n → bs[i]? = (ws[i / 2]?).map (if i % 2 = 0 then hiByte else loByte))
    ∧ (∀ (n : Nat) (ws : List Word), n ≤ 65535 → ws.length < (n + 1) / 2 →
        decode (0x5000#16 :: BitVec.ofNat 16 n :: ws) = .truncated)
    ∧ decode [0x5000#16] = .truncated
    ∧ (∀ (w : Word) (ws : List Word), w ≠ 0x5000#16 →
        (∃ i, decode (w :: ws) = .op i ws) ∨ decode (w :: ws) = .illegal w ws)
    ∧ (∀ (is : List Instr) (ws : List Word), (∀ i ∈ is, i.wf = true) → decode ws = .truncated →
        programOk (encodeAll is ++ ws) = false)
    ∧ (∀ bs : List Byte, bs.length % 2 = 1 → ((encode (.block bs)).getLast?).map loByte = some 0x00#8)
    ∧ ∀ (bs : List Byte) (s : State),
        (busBlock bs s).trace = s.trace ++ bs.map (fun b => .xfer s.cfg.dcData ⟨s.csm, s.css⟩ b)

/-! The step. -/

/-- spec/10_state.md, sections 1 and 8: where the words at `pc` decode to an operation, the idle sequencer's step is that
operation, executed after `pc` has moved past its words. -/
def Obligations.StepRunsDecodedOperation : Prop :=
  ∀ (s : State) (i : Instr) (rest : List Word), s.phase = .idle → s.cfg.valid = true →
    decode (s.prog.drop s.pc) = .op i rest → step s = exec i { s with pc := s.pc + i.words, phase := .executing i 0 }

/-- R7: a configuration that breaks a constraint is refused, and one that breaks none is not; the derived parameters. R7's two
constraints on targets and bytes hold by the types of the fields. That it is the step that refuses, as badConfig, is the
model's choice (log entry 11). -/
def Obligations.BadConfigurationsAreRefused : Prop :=
  ∀ s : State, s.phase = .idle →
    ((0 < s.cfg.w ∧ s.cfg.w % 4 = 0 ∧ 1 ≤ s.cfg.h ∧ s.cfg.h ≤ 2047 ∧ 1 ≤ s.cfg.yieldRows ∧ 1 ≤ s.cfg.nPolls
        ∧ s.cfg.resetSeq ≠ []) → step s ≠ .refused .badConfig)
      ∧ (¬ (0 < s.cfg.w ∧ s.cfg.w % 4 = 0 ∧ 1 ≤ s.cfg.h ∧ s.cfg.h ≤ 2047 ∧ 1 ≤ s.cfg.yieldRows ∧ 1 ≤ s.cfg.nPolls
        ∧ s.cfg.resetSeq ≠ []) → step s = .refused .badConfig)
      ∧ s.cfg.bpr = s.cfg.w / 2 ∧ s.cfg.half = s.cfg.w / 4 ∧ s.cfg.fbSize = s.cfg.h * s.cfg.bpr

/-- spec/10_state.md, section 1 (U20): a BLOCK that runs past the program's end is refused, by the step and when the program is
supplied. With no word left the sequencer stays idle (the model's choice, log entry 9). -/
def Obligations.StepAtTheProgramsEnd : Prop :=
  (∀ s : State, s.phase = .idle → s.cfg.valid = true → s.prog.length ≤ s.pc → step s = .next s)
    ∧ (∀ s : State, s.phase = .idle → s.cfg.valid = true → decode (s.prog.drop s.pc) = .truncated →
        step s = .refused .truncatedBlock)
    ∧ ∀ (p : List Word) (s : State), programOk p = false → State.load p s = .refused .truncatedBlock

/-! Framing operations. -/

/-- R100: NOP with any immediate changes nothing; the step that takes it changes `pc` only. -/
def Obligations.NopOnlyAdvances : Prop :=
  ∀ (imm : Byte) (s : State), exec (.nop imm) s = .next { s with phase := .idle }
    ∧ (s.phase = .idle → s.cfg.valid = true → s.prog[s.pc]? = some (0x0000#16 ||| imm.setWidth 16) →
        step s = .next { s with pc := s.pc + 1 })

/-- R102, R103: SEL makes the asserted set exactly its target, with one line event per line whose level changes,
deassertions first, master before slave; no other field changes. -/
def Obligations.SelMakesTheAssertedSetExact : Prop :=
  ∀ (i : Instr) (t : Target) (w : Word),
    (i, t, w) ∈ [(Instr.selM, Target.master, 0x1400#16), (.selS, .slave, 0x1800#16), (.selBoth, .both, 0x1C00#16)] →
    encode i = [w] ∧ ∀ s : State, exec i s = .next { s with
      csm := t.hasM
      css := t.hasS
      result := 0x00#8
      phase := .idle
      trace := s.trace
        ++ (if s.csm = true ∧ t.hasM = false then [.line .csM s.cfg.csActive.flip] else [])
        ++ (if s.css = true ∧ t.hasS = false then [.line .csS s.cfg.csActive.flip] else [])
        ++ (if t.hasM = true ∧ s.csm = false then [.line .csM s.cfg.csActive] else [])
        ++ (if t.hasS = true ∧ s.css = false then [.line .csS s.cfg.csActive] else []) }

/-- R105, R106: DESEL releases the lines of its target and leaves the others; no other field changes. -/
def Obligations.DeselReleasesOnlyItsTarget : Prop :=
  ∀ (i : Instr) (t : Target) (w : Word),
    (i, t, w) ∈ [(Instr.deselM, Target.master, 0x2400#16), (.deselS, .slave, 0x2800#16), (.deselBoth, .both, 0x2C00#16)] →
    encode i = [w] ∧ ∀ s : State, exec i s = .next { s with
      csm := s.csm && !t.hasM
      css := s.css && !t.hasS
      result := 0x00#8
      phase := .idle
      trace := s.trace
        ++ (if t.hasM = true ∧ s.csm = true then [.line .csM s.cfg.csActive.flip] else [])
        ++ (if t.hasS = true ∧ s.css = true then [.line .csS s.cfg.csActive.flip] else []) }

/-- R110, R112: CMD drives DC to the command level and clocks its byte to the selected controllers, whatever the byte; it
clears `render_ok` and changes nothing else. -/
def Obligations.CmdSendsOneCommandByte : Prop :=
  ∀ (c : Byte) (s : State), encode (.cmd c) = [0x3000#16 ||| c.setWidth 16]
    ∧ exec (.cmd c) s = .next { s with
        dc := s.cfg.dcCmd
        renderOk := false
        result := 0x00#8
        phase := .idle
        trace := s.trace ++ [.xfer s.cfg.dcCmd ⟨s.csm, s.css⟩ c] }

/-- R113, R114: DATA drives DC to the data level and clocks its byte to the selected controllers; it clears `render_ok` and
changes nothing else. -/
def Obligations.DataSendsOneDataByte : Prop :=
  ∀ (d : Byte) (s : State), encode (.data d) = [0x4000#16 ||| d.setWidth 16]
    ∧ exec (.data d) s = .next { s with
        dc := s.cfg.dcData
        renderOk := false
        result := 0x00#8
        phase := .idle
        trace := s.trace ++ [.xfer s.cfg.dcData ⟨s.csm, s.css⟩ d] }

/-- R115, R116: BLOCK drives DC high and clocks its payload in order (none for `L = 0`); it clears `render_ok` and changes
nothing else; a payload that is not empty acts as that many DATA operations in a row. The low byte of the last word of an
odd payload is ignored. -/
def Obligations.BlockSendsItsPayloadInOrder : Prop :=
  (∀ (p : List Byte) (s : State),
      exec (.block p) s = .next { s with
        dc := s.cfg.dcData
        renderOk := false
        result := 0x00#8
        phase := .idle
        trace := s.trace ++ p.map (fun b => .xfer s.cfg.dcData ⟨s.csm, s.css⟩ b) }
      ∧ (p ≠ [] → execAll (p.map .data) s = exec (.block p) s)
      ∧ encode (.block p) = 0x5000#16 :: BitVec.ofNat 16 p.length :: pack p ∧ (pack p).length = (p.length + 1) / 2)
    ∧ ∀ (p : List Byte) (b low : Byte) (rest : List Word), p.length % 2 = 0 → p.length + 1 ≤ 65535 →
        decode (0x5000#16 :: BitVec.ofNat 16 (p.length + 1) :: (pack p ++ (b ++ low) :: rest))
          = .op (.block (p ++ [b])) rest

/-- R107, R117: a byte reaches exactly the controllers whose select is asserted at its transfer. -/
def Obligations.BytesReachTheSelectedControllers : Prop :=
  ∀ (b : Byte) (s : State), ∀ i ∈ [Instr.cmd b, Instr.data b, Instr.block [b]],
    ∃ t, exec i s = .next t
      ∧ receivedBy .master (newEvents s t) = (if s.csm then [b] else [])
      ∧ receivedBy .slave (newEvents s t) = (if s.css then [b] else [])
      ∧ (newEvents s t).countP Event.isXfer = 1

/-- spec/40_panelbus.md, section 9: a broadcast and two separate pulses give each controller the same bytes in different
traces. -/
def Obligations.BroadcastDiffersFromSeparatePulses : Prop :=
  ∀ (c : Byte) (ps : List Byte) (s : State), s.csm = false → s.css = false →
    let one := xfer .both c ps s
    let two := xfer .slave c ps (xfer .master c ps s)
    (∀ h, receivedBy h (newEvents s one) = c :: ps ∧ receivedBy h (newEvents s two) = c :: ps)
      ∧ (newEvents s one).countP Event.isXfer = 1 + ps.length
      ∧ (newEvents s two).countP Event.isXfer = 2 * (1 + ps.length)

/-- spec/30_encoding.md, section 5: the operations of `xfer t, c, ps` send the same transaction as the internal routine, and
clear `render_ok`. -/
def Obligations.XferPseudoInstructionSendsATransaction : Prop :=
  ∀ (t : Target) (c : Byte) (ps : List Byte) (s : State),
    execAll (xferPseudo t c ps) s
      = .next { xfer t c ps s with renderOk := false, result := 0x00#8, phase := .idle }
      ∧ (xfer t c ps s).renderOk = s.renderOk

/-- R90: a command byte goes out with DC at its level, a data byte with DC at its; the chip-selects are at their current
levels, and the bits leave most significant first. -/
def Obligations.TransfersOnTheWire : Prop :=
  ∀ (b : Byte) (s : State), s.cfg.bitOrder = .msbFirst →
    (∃ e x, (busCmd b s).trace = s.trace ++ [e] ∧ e = .xfer s.cfg.dcCmd ⟨s.csm, s.css⟩ b ∧ wireByte s.cfg e = some x
        ∧ x.dc = s.cfg.dcCmd ∧ x.csM = (if s.csm then s.cfg.csActive else s.cfg.csActive.flip)
        ∧ x.csS = (if s.css then s.cfg.csActive else s.cfg.csActive.flip)
        ∧ x.bits.length = 8 ∧ ∀ i, i < 8 → x.bits[i]? = some (if b.getLsbD (7 - i) then Level.high else Level.low))
      ∧ (∃ e x, (busData b s).trace = s.trace ++ [e] ∧ e = .xfer s.cfg.dcData ⟨s.csm, s.css⟩ b ∧ wireByte s.cfg e = some x
        ∧ x.dc = s.cfg.dcData ∧ x.csM = (if s.csm then s.cfg.csActive else s.cfg.csActive.flip)
        ∧ x.csS = (if s.css then s.cfg.csActive else s.cfg.csActive.flip)
        ∧ x.bits.length = 8 ∧ ∀ i, i < 8 → x.bits[i]? = some (if b.getLsbD (7 - i) then Level.high else Level.low))
      ∧ Config.platform.dcCmd = .low ∧ Config.platform.dcData = .high ∧ Config.platform.bitOrder = .msbFirst

/-! Initializer operations. -/

/-- R130, R131: RSTP drives the reset line through every step of RESET_SEQ, waits out each step's delay, and clears
`initialized`, `render_ok` and `power`; it touches nothing else. -/
def Obligations.RstpPulsesTheResetLine : Prop :=
  encode .rstp = [0x6000#16] ∧ ∀ s : State, exec .rstp s = .next { s with
    rst := ((s.cfg.resetSeq.getLast?).map ResetStep.level).getD s.rst
    initialized := false
    renderOk := false
    power := .off
    result := 0x00#8
    phase := .idle
    trace := s.trace ++ (List.range s.cfg.resetSeq.length).flatMap (fun i =>
      [.line .rst ((s.cfg.resetSeq.map ResetStep.level).getD i .low), .delay (.resetStep i)]) }

/-- R133, R134: BWAIT takes a sample and a keep-alive per poll, T_POLL after each busy one, and ends at the first idle
sample with T_BUSY_SETTLE, or after N_POLLS busy ones as a time-out; whatever the panel answers, it ends in one of these ways,
and it changes no other field. -/
def Obligations.EveryBusyWaitFollowsItsRule : Prop :=
  encode .bwait = [0x7000#16] ∧ ∀ s : State, s.cfg.valid = true →
    ∃ (levels : List Level) (o : Wait) (t : State), WaitScript s.cfg levels o
      ∧ 1 ≤ levels.length ∧ levels.length ≤ s.cfg.nPolls ∧ exec .bwait s = .next t
      ∧ t = { s with
          busyLast := levels.getLast?.getD s.busyLast
          busyValid := true
          tout := decide (o = .timedOut)
          tocnt := if o = .timedOut then BitVec.ofNat 16 (min (s.tocnt.toNat + 1) 0xFFFF) else s.tocnt
          result := if o = .timedOut then 0x01#8 else 0x00#8
          phase := .idle
          trace := s.trace ++ pollEvents s.cfg levels
          env := t.env }

/-- spec/41_initializer.md, section 2 and spec/70_reset_and_hazards.md R238: every script of BUSY levels can occur. With its
levels pending, BWAIT samples exactly them and ends as they say. -/
def Obligations.BusyWaitSamplesThePendingLevels : Prop :=
  ∀ (s : State) (levels rest : List Level) (o : Wait), s.cfg.valid = true → WaitScript s.cfg levels o →
    s.env.busyIn = levels ++ rest →
    ∃ t, exec .bwait s = .next t ∧ t.trace = s.trace ++ pollEvents s.cfg levels ∧ t.env = { s.env with busyIn := rest }
      ∧ (t.tout = true ↔ o = .timedOut) ∧ (t.result = 0x01#8 ↔ o = .timedOut) ∧ (t.result = 0x00#8 ↔ o = .released)

/-- R136, R137, R138: INIT sends the reset pulse and then each entry of INIT_TABLE, in its order, as one transaction with its
own target; it ends with `initialized` true; it takes no BUSY sample; no other field changes. -/
def Obligations.InitSendsThePulseAndTheTable : Prop :=
  encode .init = [0x8000#16] ∧ ∀ s : State, ∃ t, exec .init s = .next t
    ∧ t = { s with
        rst := ((s.cfg.resetSeq.getLast?).map ResetStep.level).getD s.rst
        csm := s.csm && s.cfg.initTable.isEmpty
        css := s.css && s.cfg.initTable.isEmpty
        dc := ((s.cfg.initTable.getLast?).map fun e => if e.params = [] then s.cfg.dcCmd else s.cfg.dcData).getD s.dc
        initialized := true
        renderOk := false
        power := .off
        result := 0x00#8
        phase := .idle
        trace := s.trace ++ resetEvents s.cfg ++ tableEvents s.cfg s.csm s.css s.cfg.initTable
        work := t.work
        env := t.env }
    ∧ t.env = { s.env with draws := t.env.draws }
    ∧ ∀ e ∈ newEvents s t, e.isSample = false

/-- R139, R140: CYCLE is refused with NOT_INITIALIZED and then with NO_VALID_RENDER, before any event; else it sends POWER_ON,
REFRESH and POWER_OFF, each followed by a busy-wait in the power state it enters, goes on after a time-out, and ends with
BUSY_TIMEOUT when a wait timed out. Each clause's frame: no other field changes. The last clauses: an accepted CYCLE is its
three power steps in a row; each is its command and then a busy-wait, which starts and ends in the power state entered. -/
def Obligations.CycleFollowsItsRule : Prop :=
  encode .cycle = [0xA000#16]
    ∧ (∀ s : State, s.initialized = false →
        ∃ t, exec .cycle s = .next t ∧ t.env = { s.env with draws := t.env.draws }
          ∧ t = { s with result := 0x20#8, phase := .idle, work := t.work, env := t.env })
    ∧ (∀ s : State, s.initialized = true → s.renderOk = false →
        ∃ t, exec .cycle s = .next t ∧ t.env = { s.env with draws := t.env.draws }
          ∧ t = { s with result := 0x21#8, phase := .idle, work := t.work, env := t.env })
    ∧ (∀ s : State, s.initialized = true → s.renderOk = true → s.cfg.valid = true →
        ∃ (w1 w2 w3 : List Level) (o1 o2 o3 : Wait) (t : State), WaitScript s.cfg w1 o1 ∧ WaitScript s.cfg w2 o2
          ∧ WaitScript s.cfg w3 o3 ∧ exec .cycle s = .next t
          ∧ t = { s with
              csm := false
              css := false
              dc := s.cfg.dcData
              power := .off
              busyLast := w3.getLast?.getD s.busyLast
              busyValid := true
              tout := decide (o3 = .timedOut)
              tocnt := BitVec.ofNat 16 (min (s.tocnt.toNat + [o1, o2, o3].count .timedOut) 0xFFFF)
              result := if o1 = .timedOut ∨ o2 = .timedOut ∨ o3 = .timedOut then 0x01#8 else 0x00#8
              phase := .idle
              trace := s.trace ++ cycleEvents s.cfg s.csm s.css w1 w2 w3
              work := t.work
              env := t.env })
    ∧ (∀ s : State, s.initialized = true → s.renderOk = true →
        ∃ r, exec .cycle s = endWork (setResult r (powerStep .powerOff
          (powerStep .refresh (delay .ponSettle (powerStep .powerOn s).2)).2).2))
    ∧ ∀ (ph : CyclePhase) (s : State),
        let p : Power := match ph with | .powerOn => .poweredOn | .refresh => .refreshing | .powerOff => .off
        powerStep ph s = busyWait (powerCommand ph s) ∧ (powerCommand ph s).power = p ∧ (powerStep ph s).2.power = p

/-- spec/41_initializer.md, section 4: with the levels of its three waits pending, an accepted CYCLE samples exactly them. -/
def Obligations.CycleSamplesThePendingLevels : Prop :=
  ∀ (s : State) (w1 w2 w3 rest : List Level) (o1 o2 o3 : Wait), s.initialized = true → s.renderOk = true →
    WaitScript s.cfg w1 o1 → WaitScript s.cfg w2 o2 → WaitScript s.cfg w3 o3 → s.env.busyIn = w1 ++ w2 ++ w3 ++ rest →
    ∃ t, exec .cycle s = .next t ∧ t.trace = s.trace ++ cycleEvents s.cfg s.csm s.css w1 w2 w3 ∧ t.env.busyIn = rest
      ∧ t.power = .off ∧ (t.result = 0x01#8 ↔ o1 = .timedOut ∨ o2 = .timedOut ∨ o3 = .timedOut)

/-- spec/41_initializer.md, section 4: once accepted, a cycle is never cut short; whatever the panel answers, the addressed
controllers receive all three commands with their parameters, and the data stays valid for a second cycle. -/
def Obligations.CycleIsNeverCutShort : Prop :=
  ∀ s : State, s.initialized = true → s.renderOk = true →
    ∃ t, exec .cycle s = .next t ∧ t.power = .off ∧ t.renderOk = true ∧ t.initialized = true
      ∧ ∀ h, receivedBy h (newEvents s t) = if s.cfg.cycleTarget.sel.has h then
          [s.cfg.cmdPon, s.cfg.cmdDrf, s.cfg.drfParam, s.cfg.cmdPof, s.cfg.pofParam] else []

/-! Renderer operations. -/

/-- spec/42_renderer.md R160, spec/20_memory.md R66: RENDER is refused without INIT before any event; with no file, or one
whose size is not FB_SIZE, it ends with NO_IMAGE before any bus event; no other field changes. -/
def Obligations.RenderWithoutAnImageTouchesNoBus : Prop :=
  (∀ s : State, s.initialized = false →
      ∃ t, exec .render s = .next t ∧ t.env = { s.env with draws := t.env.draws }
        ∧ t = { s with result := 0x20#8, phase := .idle, work := t.work, env := t.env })
    ∧ (∀ (s : State) (files : List (Option (List Byte))), s.initialized = true → s.env.openIn = none :: files →
        ∃ t, exec .render s = .next t ∧ t.env.openIn = files
          ∧ t = { s with
              renderOk := false
              rprog := ⟨.master, 0⟩
              result := 0x10#8
              openFile := none
              phase := .idle
              trace := s.trace ++ [.sopen none]
              work := t.work
              env := t.env })
    ∧ ∀ (s : State) (F : List Byte) (files : List (Option (List Byte))), s.initialized = true →
        s.env.openIn = some F :: files → F.length ≠ s.cfg.fbSize →
        ∃ t, exec .render s = .next t ∧ t.env.openIn = files
          ∧ t = { s with
              renderOk := false
              rprog := ⟨.master, 0⟩
              result := 0x10#8
              openFile := none
              phase := .idle
              trace := s.trace ++ [.sopen (some F.length), .sclose]
              work := t.work
              env := t.env }

/-- spec/42_renderer.md R160, R161, R163, R164: RENDER of a file of size FB_SIZE that the storage reads out whole: its exact
events, its end state, and its frame. -/
def Obligations.RenderOfAValidFile : Prop :=
  ∀ (s : State) (F : List Byte) (files : List (Option (List Byte))) (rest : List ReadReply), s.cfg.valid = true →
    s.initialized = true → s.env.openIn = some F :: files → F.length = s.cfg.fbSize →
    s.env.readIn = List.replicate (4 * s.cfg.h) .whole ++ rest →
    ∃ t, exec .render s = .next t ∧ t.env.openIn = files ∧ t.env.readIn = rest ∧ t.env.busyIn = s.env.busyIn
      ∧ t = { s with
          csm := false
          css := false
          dc := s.cfg.dcData
          renderOk := true
          rprog := ⟨.slave, BitVec.ofNat 11 s.cfg.h⟩
          result := 0x00#8
          openFile := none
          phase := .idle
          trace := s.trace ++ renderEvents s.cfg s.csm s.css F
          work := t.work
          env := t.env }

/-- spec/42_renderer.md, section 1 (R162, R164): in a render that completes, the master controller receives the data-transfer
command and the concatenation of the rows' first halves in row order, and the slave controller that of the second halves. -/
def Obligations.RenderStreamsTheHalves : Prop :=
  ∀ (s : State) (F : List Byte) (files : List (Option (List Byte))) (rest : List ReadReply), s.cfg.valid = true →
    s.initialized = true → s.env.openIn = some F :: files → F.length = s.cfg.fbSize →
    s.env.readIn = List.replicate (4 * s.cfg.h) .whole ++ rest →
    ∃ t, exec .render s = .next t
      ∧ receivedBy .master (newEvents s t) = s.cfg.cmdDtm :: masterStream s.cfg F s.cfg.h
      ∧ receivedBy .slave (newEvents s t) = s.cfg.cmdDtm :: slaveStream s.cfg F s.cfg.h

/-- spec/42_renderer.md, section 1 (R166): interleaving the two received streams row by row reconstructs the file exactly. -/
def Obligations.RenderStreamsReconstructTheFile : Prop :=
  ∀ (s : State) (F : List Byte) (files : List (Option (List Byte))) (rest : List ReadReply), s.cfg.valid = true →
    s.initialized = true → s.env.openIn = some F :: files → F.length = s.cfg.fbSize →
    s.env.readIn = List.replicate (4 * s.cfg.h) .whole ++ rest →
    ∃ t, exec .render s = .next t
      ∧ interleave s.cfg.half s.cfg.h (receivedBy .master (newEvents s t)).tail (receivedBy .slave (newEvents s t)).tail = F

/-- spec/42_renderer.md, section 1 (R169): the numbers of storage events after SOPEN, of transfers and of keep-alives of a
render that completes. -/
def Obligations.RenderEventCounts : Prop :=
  ∀ (s : State) (F : List Byte) (files : List (Option (List Byte))) (rest : List ReadReply), s.cfg.valid = true →
    s.initialized = true → s.env.openIn = some F :: files → F.length = s.cfg.fbSize →
    s.env.readIn = List.replicate (4 * s.cfg.h) .whole ++ rest →
    ∃ t, exec .render s = .next t
      ∧ (newEvents s t).countP Event.isStorage = 4 * s.cfg.h + 2
      ∧ (newEvents s t).countP Event.isXfer = s.cfg.fbSize + 2
      ∧ (newEvents s t).countP Event.isKeepalive = 2 * (s.cfg.h / s.cfg.yieldRows)

/-- R165: when the first read that is short is read number `k` of the render, the pass is aborted at once: the select is
released, the file closed, the short read's code reported and `render_ok` left false; no byte of the short read is sent, no
slave pass follows a short read of the master pass, and `rprog` keeps the pass and its completed rows. No other field
changes. -/
def Obligations.ShortReadAbortsTheRender : Prop :=
  ∀ (s : State) (F : List Byte) (files : List (Option (List Byte))) (k : Nat) (bad : ReadReply) (rest : List ReadReply),
    s.cfg.valid = true → s.initialized = true → s.env.openIn = some F :: files → F.length = s.cfg.fbSize →
    k < 4 * s.cfg.h → s.env.readIn = List.replicate k .whole ++ bad :: rest →
    let j := k % (2 * s.cfg.h)
    let n := (bad.bytes s.cfg.half (fileBytes F (j * s.cfg.half) s.cfg.half)).length
    n < s.cfg.half →
    ∃ t, exec .render s = .next t
      ∧ t = { s with
          csm := false
          css := false
          dc := t.dc
          renderOk := false
          rprog := ⟨if k < 2 * s.cfg.h then .master else .slave, BitVec.ofNat 11 (j / 2)⟩
          result := if k < 2 * s.cfg.h then 0x11#8 else 0x12#8
          openFile := none
          phase := .idle
          trace := t.trace
          work := t.work
          env := t.env }
      ∧ (∃ pre, newEvents s t = pre
          ++ [.sread (j * s.cfg.half) s.cfg.half n,
              .line (if k < 2 * s.cfg.h then .csM else .csS) s.cfg.csActive.flip, .sclose])
      ∧ receivedBy .master (newEvents s t)
          = s.cfg.cmdDtm :: masterStream s.cfg F (if k < 2 * s.cfg.h then (k + 1) / 2 else s.cfg.h)
      ∧ receivedBy .slave (newEvents s t)
          = (if k < 2 * s.cfg.h then [] else s.cfg.cmdDtm :: slaveStream s.cfg F (j / 2))
      ∧ (newEvents s t).count (.delay .passSettle) = (if k < 2 * s.cfg.h then 0 else 1)

/-- spec/42_renderer.md, section 2 (R170): DISPLAY of a file of size FB_SIZE that the storage reads out whole is INIT when the
block is not initialised, then the render, then the cycle; its exact events, its end state and its frame. -/
def Obligations.DisplayIsInitThenRenderThenCycle : Prop :=
  ∀ (s : State) (F : List Byte) (files : List (Option (List Byte))) (rest : List ReadReply) (w1 w2 w3 more : List Level)
    (o1 o2 o3 : Wait), s.cfg.valid = true → s.env.openIn = some F :: files → F.length = s.cfg.fbSize →
    s.env.readIn = List.replicate (4 * s.cfg.h) .whole ++ rest → s.env.busyIn = w1 ++ w2 ++ w3 ++ more →
    WaitScript s.cfg w1 o1 → WaitScript s.cfg w2 o2 → WaitScript s.cfg w3 o3 →
    ∃ t, exec .display s = .next t ∧ t.env.openIn = files ∧ t.env.readIn = rest ∧ t.env.busyIn = more
      ∧ t = { s with
          rst := if s.initialized then s.rst else ((s.cfg.resetSeq.getLast?).map ResetStep.level).getD s.rst
          csm := false
          css := false
          dc := s.cfg.dcData
          initialized := true
          power := .off
          renderOk := true
          busyLast := w3.getLast?.getD s.busyLast
          busyValid := true
          tout := decide (o3 = .timedOut)
          tocnt := BitVec.ofNat 16 (min (s.tocnt.toNat + [o1, o2, o3].count .timedOut) 0xFFFF)
          result := if o1 = .timedOut ∨ o2 = .timedOut ∨ o3 = .timedOut then 0x01#8 else 0x00#8
          rprog := ⟨.slave, BitVec.ofNat 11 s.cfg.h⟩
          openFile := none
          phase := .idle
          trace := s.trace
            ++ (if s.initialized then renderEvents s.cfg s.csm s.css F
                else initEvents s.cfg s.csm s.css
                  ++ renderEvents s.cfg (s.csm && s.cfg.initTable.isEmpty) (s.css && s.cfg.initTable.isEmpty) F)
            ++ cycleEvents s.cfg false false w1 w2 w3
          work := t.work
          env := t.env }

/-- spec/42_renderer.md, section 2 (R170, R171): whatever the panel and the storage answer, DISPLAY leaves the block
initialised and never refuses; when its render fails, it reports the render's error and no cycle runs: it ends as RENDER does
from the initialised block, and its events are INIT's, when INIT was due, and then the failed render's, which are SOPEN alone,
or SOPEN, events of the two passes, and SCLOSE, with nothing after it. When its render completes, it reports the cycle's
result. -/
def Obligations.DisplayRunsNoCycleAfterAFailedRender : Prop :=
  ∀ s : State, ∃ t, exec .display s = .next t ∧ t.initialized = true
    ∧ (t.renderOk = false →
        t.result ∈ [0x10#8, 0x11#8, 0x12#8] ∧ (∀ e ∈ newEvents s t, e.isSample = false)
          ∧ exec .render (if s.initialized then s else initBody s) = .next t
          ∧ (∃ evs, newEvents s t = (if s.initialized then [] else initEvents s.cfg s.csm s.css) ++ evs
            ∧ (evs = [.sopen none] ∨ ∃ n mid, evs = [.sopen (some n)] ++ mid ++ [.sclose]
                ∧ ∀ e ∈ mid, passEvent s.cfg e = true))
          ∧ t.busyLast = s.busyLast ∧ t.tout = s.tout ∧ t.tocnt = s.tocnt)
    ∧ (t.renderOk = true → t.result ∈ [0x00#8, 0x01#8] ∧ t.power = .off)

/-! The storage port. -/

/-- spec/20_memory.md, section 2 (R62, R64): a read of an opened file emits its event and changes the row buffer and nothing
else; the bytes are at most `n`; with no foreign writer they are a prefix of the file's bytes at the offset, and all of
them when the storage reports no failure. -/
def Obligations.StorageReadsAnswerTheFile : Prop :=
  ∀ (s : State) (F : List Byte) (off n : Nat) (r : ReadReply) (rest : List ReadReply),
    s.openFile = some (StoredFile.ofBytes F) → s.env.readIn = r :: rest →
    let t := memRead off n s
    t = { s with
        env := { s.env with readIn := rest }
        work := { s.work with rowbuf := t.work.rowbuf }
        trace := s.trace ++ [.sread off n t.work.rowbuf.length] }
      ∧ t.work.rowbuf.length ≤ n
      ∧ ((∀ bs, r ≠ .interfered bs) → t.work.rowbuf <+: (F.drop off).take n)
      ∧ (r = .whole → t.work.rowbuf = (F.drop off).take n)

/-! Status. -/

/-- R190, R191: RDSTAT puts the status word of R191 into `rdata` and gives it to the host; nothing else changes, RESULT
among it, and a second read of any index returns what the first would have. -/
def Obligations.RdstatReturnsTheStatusWord : Prop :=
  ∀ (k : Byte) (s : State),
    let b : Bool → Word := fun x => if x then 1#16 else 0#16
    let l : Level → Word := fun x => if x = .high then 1#16 else 0#16
    let p : Word := match s.power with | .off => 0#16 | .poweredOn => 1#16 | .refreshing => 2#16
    let v : Word :=
      if k = 0x00#8 then (b s.tout <<< 4) ||| (b s.renderOk <<< 3) ||| (p <<< 1) ||| b s.initialized
      else if k = 0x01#8 then s.result.setWidth 16
      else if k = 0x02#8 then s.tocnt
      else if k = 0x03#8 then (b s.busyValid <<< 5) ||| ((if s.busyValid then l s.busyLast else 0#16) <<< 4)
        ||| (l s.rst <<< 3) ||| (l s.dc <<< 2) ||| (b s.css <<< 1) ||| b s.csm
      else if k = 0x04#8 then (b (decide (s.rprog.pass = .slave)) <<< 15) ||| s.rprog.rows.setWidth 16
      else 0x0000#16
    encode (.rdstat k) = [0xC000#16 ||| k.setWidth 16]
      ∧ exec (.rdstat k) s = .next { s with rdata := v, trace := s.trace ++ [.hostread v], phase := .idle }
      ∧ ∀ t k', exec (.rdstat k) s = .next t → statusValue k' t = statusValue k' s

/-- R43, R44, R45, R46, R47, R48: the fields of the status registers, bit by bit, the reserved bits and indices, and the
registers' reset values. -/
def Obligations.StatusRegisterFields : Prop :=
  (∀ s : State,
      (statusValue 0x00 s).getLsbD 0 = s.initialized
      ∧ (statusValue 0x00 s).extractLsb' 1 2
        = (match s.power with | .off => 0#2 | .poweredOn => 1#2 | .refreshing => 2#2)
      ∧ (statusValue 0x00 s).getLsbD 3 = s.renderOk ∧ (statusValue 0x00 s).getLsbD 4 = s.tout
      ∧ (statusValue 0x00 s).extractLsb' 5 11 = 0#11
      ∧ (statusValue 0x01 s).extractLsb' 0 8 = s.result ∧ (statusValue 0x01 s).extractLsb' 8 8 = 0#8
      ∧ statusValue 0x02 s = s.tocnt
      ∧ (statusValue 0x03 s).getLsbD 0 = s.csm ∧ (statusValue 0x03 s).getLsbD 1 = s.css
      ∧ (statusValue 0x03 s).getLsbD 2 = decide (s.dc = .high) ∧ (statusValue 0x03 s).getLsbD 3 = decide (s.rst = .high)
      ∧ (statusValue 0x03 s).getLsbD 4 = (s.busyValid && decide (s.busyLast = .high))
      ∧ (statusValue 0x03 s).getLsbD 5 = s.busyValid ∧ (statusValue 0x03 s).extractLsb' 6 10 = 0#10
      ∧ (statusValue 0x04 s).getLsbD 15 = decide (s.rprog.pass = .slave)
      ∧ (statusValue 0x04 s).extractLsb' 0 11 = s.rprog.rows ∧ (statusValue 0x04 s).extractLsb' 11 4 = 0#4
      ∧ ∀ k : Byte, 5 ≤ k.toNat → statusValue k s = 0x0000#16
        ∧ exec (.rdstat k) s
          = .next { s with rdata := 0x0000#16, trace := s.trace ++ [.hostread 0x0000#16], phase := .idle })
    ∧ ∀ c : Config, c.rstReset = .high →
        statusValue 0x00 (State.resetWith c) = 0x0000#16 ∧ statusValue 0x01 (State.resetWith c) = 0x0000#16
        ∧ statusValue 0x02 (State.resetWith c) = 0x0000#16 ∧ statusValue 0x03 (State.resetWith c) = 0x0008#16
        ∧ statusValue 0x04 (State.resetWith c) = 0x0000#16

/-! Reset and configuration. -/

/-- R50, R230: block reset, in any state, puts every field at its reset value and emits no event; so does the state right
after reset, where RST_RESET_LEVEL is 1. The working state is unspecified and not named. -/
def Obligations.BlockResetGivesTheResetValues : Prop :=
  (∀ (s t : State), (t = blockReset s ∨ (t = State.reset ∧ s = State.reset)) →
      t.pc = 0 ∧ t.trace = [] ∧ t.csm = false ∧ t.css = false ∧ t.dc = .low ∧ t.rst = s.cfg.rstReset ∧ t.busyLast = .low
      ∧ t.busyValid = false ∧ t.initialized = false ∧ t.power = .off ∧ t.renderOk = false ∧ t.tout = false
      ∧ t.tocnt = 0x0000#16 ∧ t.result = 0x00#8 ∧ t.rdata = 0x0000#16 ∧ t.rprog = ⟨.master, 0⟩ ∧ t.phase = .idle)
    ∧ State.reset.cfg = Config.platform ∧ Config.platform.rstReset = .high

/-- R8: the framebuffer's size relation, and its values with the default parameters. -/
def Obligations.FramebufferGeometry : Prop :=
  (∀ c : Config, c.valid = true → c.fbSize = c.w * c.h / 2 ∧ c.h * c.bpr = c.fbSize ∧ c.bpr = 2 * c.half
      ∧ c.w * bitsPerPixel = 8 * c.bpr)
    ∧ ∀ c : Config, c.w = 1200 → c.h = 1600 → c.fbSize = 960000 ∧ c.bpr = 600 ∧ c.half = 300

/-! Whole-machine rules. -/

/-- spec/10_state.md: the invariant holds right after reset, for every accepted configuration, and once a well-formed program
is supplied. It rests on the model's choices: no file is open at reset (log entry 6), State.reset's OPEN parameters obey R7 (log
entry 2), a refused configuration is a field of State (log entry 11), and a program is supplied by State.load (log entries 10
and 12). -/
def Obligations.InvariantHoldsAtReset : Prop :=
  Inv State.reset ∧ ∀ c : Config, c.valid = true → Inv (State.resetWith c)
    ∧ ∀ (p : List Word) (t : State), State.load p (State.resetWith c) = .next t → Inv t

/-- spec/10_state.md, spec/60_exceptions.md: every step keeps the invariant: the configuration and the rest of the program stay
accepted, the sequencer ends idle with the stored file closed and no power cycle half-way, `render_ok` implies
`initialized`, `result` is a known code, the row count fits the panel, and a time-out has been counted. -/
def Obligations.StepKeepsTheInvariant : Prop :=
  ∀ s t : State, Inv s → step s = .next t → Inv t

/-- spec/60_exceptions.md, section 1 (R202): the block never stops: from every state of a run the next operation is taken and
ends, and `pc` moves while a word is left. With no word left, that the step answers a next state is the model's choice (log
entry 9). -/
def Obligations.NoStepOfARunStops : Prop :=
  ∀ s : State, Inv s → ∃ t, step s = .next t ∧ (s.pc < s.prog.length → s.pc < t.pc) ∧ t.pc ≤ s.prog.length

/-- spec/70_reset_and_hazards.md, section 4 (R246, R247): every run of a well-formed program ends, in at most as many steps as
the program has words, with the sequencer idle at the program's end. It takes exactly as many steps as there are words: those
left once the end is reached stay there, which is the model's choice (log entry 9). -/
def Obligations.EveryRunEnds : Prop :=
  ∀ s : State, Inv s → ∃ t, Sys2Proof.core.run s.prog.length s = .next t ∧ t.ended = true ∧ Inv t

/-- spec/10_state.md, section 3 (R32): the trace only grows. -/
def Obligations.TraceOnlyGrows : Prop :=
  ∀ s t : State, step s = .next t → s.trace <+: t.trace

/-- spec/10_state.md, section 1 and spec/00_scope.md R10: no step changes the configuration or the program, and `pc` moves by
the length of what was taken and by nothing else. That block reset keeps both is the model's choice (log entry 13). -/
def Obligations.StepKeepsParametersAndCountsWords : Prop :=
  (∀ s t : State, step s = .next t → t.cfg = s.cfg ∧ t.prog = s.prog
    ∧ t.pc = s.pc + (match decode (s.prog.drop s.pc) with
        | .op i _ => i.words | .illegal _ _ => 1 | .empty => 0 | .truncated => 0))
    ∧ ∀ s : State, (blockReset s).cfg = s.cfg ∧ (blockReset s).prog = s.prog

/-- spec/10_state.md, section 6 (R49): each operation's frame: the fields it may write; every other field is unchanged.
`phase` returns to Idle, and `work`, `env` and `openFile` are working state and the agents' answers. -/
def Obligations.OperationsWriteOnlyTheirState : Prop :=
  ∀ (i : Instr) (s t : State), exec i s = .next t → t.phase = .idle ∧
    match i with
    | .nop _ => t = { s with phase := .idle }
    | .selM | .selS | .selBoth | .deselM | .deselS | .deselBoth =>
      t = { s with phase := .idle, csm := t.csm, css := t.css, trace := t.trace, result := t.result }
    | .cmd _ | .data _ | .block _ =>
      t = { s with phase := .idle, dc := t.dc, renderOk := t.renderOk, trace := t.trace, result := t.result }
    | .rstp =>
      t = { s with phase := .idle, rst := t.rst, initialized := t.initialized, power := t.power, renderOk := t.renderOk
                   trace := t.trace, result := t.result }
    | .bwait =>
      t = { s with phase := .idle, busyLast := t.busyLast, busyValid := t.busyValid, tout := t.tout, tocnt := t.tocnt
                   trace := t.trace, result := t.result, env := t.env }
    | .init =>
      t = { s with phase := .idle, rst := t.rst, csm := t.csm, css := t.css, dc := t.dc, initialized := t.initialized
                   power := t.power, renderOk := t.renderOk, trace := t.trace, result := t.result, work := t.work
                   env := t.env }
    | .render =>
      t = { s with phase := .idle, csm := t.csm, css := t.css, dc := t.dc, renderOk := t.renderOk, rprog := t.rprog
                   trace := t.trace, result := t.result, work := t.work, env := t.env, openFile := t.openFile }
    | .cycle =>
      t = { s with phase := .idle, csm := t.csm, css := t.css, dc := t.dc, power := t.power, busyLast := t.busyLast
                   busyValid := t.busyValid, tout := t.tout, tocnt := t.tocnt, trace := t.trace, result := t.result
                   work := t.work, env := t.env }
    | .display =>
      t = { s with phase := .idle, rst := t.rst, csm := t.csm, css := t.css, dc := t.dc, initialized := t.initialized
                   power := t.power, renderOk := t.renderOk, rprog := t.rprog, busyLast := t.busyLast
                   busyValid := t.busyValid, tout := t.tout, tocnt := t.tocnt, trace := t.trace, result := t.result
                   work := t.work, env := t.env, openFile := t.openFile }
    | .rdstat _ => t = { s with phase := .idle, rdata := t.rdata, trace := t.trace }

/-- spec/10_state.md, section 5 (R35): `initialized` becomes true only by INIT or by DISPLAY's INIT, and false only by RSTP. -/
def Obligations.InitializedOnlyByInit : Prop :=
  ∀ (i : Instr) (s t : State), exec i s = .next t →
    (s.initialized = false → t.initialized = true → i = .init ∨ i = .display)
      ∧ (s.initialized = true → t.initialized = false → i = .rstp)

/-- spec/10_state.md, section 5 (R37): `render_ok` becomes true only by RENDER or DISPLAY; CMD, DATA, BLOCK, RSTP and INIT clear
it; SEL, DESEL, NOP, BWAIT, CYCLE and RDSTAT leave it. -/
def Obligations.RenderOkOnlyByRender : Prop :=
  ∀ (i : Instr) (s t : State), exec i s = .next t →
    match i with
    | .cmd _ | .data _ | .block _ | .rstp | .init => t.renderOk = false
    | .render => s.initialized = true → (t.renderOk = true ↔ t.result = 0x00#8)
    | .display => t.renderOk = true ↔ (t.result = 0x00#8 ∨ t.result = 0x01#8)
    | .nop _ | .selM | .selS | .selBoth | .deselM | .deselS | .deselBoth | .bwait | .cycle | .rdstat _ =>
      t.renderOk = s.renderOk

/-- spec/60_exceptions.md, section 1 (R200, R201): the result codes each operation can write; NOP and RDSTAT leave the code. -/
def Obligations.ResultCodesByOperation : Prop :=
  ∀ (i : Instr) (s t : State), exec i s = .next t →
    match i with
    | .nop _ | .rdstat _ => t.result = s.result
    | .selM | .selS | .selBoth | .deselM | .deselS | .deselBoth | .cmd _ | .data _ | .block _ | .rstp | .init =>
      t.result = 0x00#8
    | .bwait => t.result ∈ [0x00#8, 0x01#8]
    | .render => t.result ∈ [0x00#8, 0x10#8, 0x11#8, 0x12#8, 0x20#8]
    | .cycle => t.result ∈ [0x00#8, 0x01#8, 0x20#8, 0x21#8]
    | .display => t.result ∈ [0x00#8, 0x01#8, 0x10#8, 0x11#8, 0x12#8]

/-- spec/10_state.md, section 5 (R38), spec/00_scope.md R17: the timeout counter never falls and never wraps; only a busy-wait
writes it, at most once per wait. -/
def Obligations.TimeoutCounterSaturates : Prop :=
  ∀ (i : Instr) (s t : State), exec i s = .next t →
    s.tocnt.toNat ≤ t.tocnt.toNat ∧ t.tocnt.toNat ≤ s.tocnt.toNat + 3
      ∧ (i = .bwait → t.tocnt.toNat ≤ s.tocnt.toNat + 1)
      ∧ (i ≠ .bwait → i ≠ .cycle → i ≠ .display → t.tocnt = s.tocnt ∧ t.tout = s.tout)

/-- spec/60_exceptions.md R204, spec/70_reset_and_hazards.md R236: BUSY is sampled only inside a busy-wait: only BWAIT, CYCLE and
DISPLAY take samples, INIT among the others does not. -/
def Obligations.SamplesOnlyInBusyWaits : Prop :=
  ∀ (i : Instr) (s t : State), exec i s = .next t → i ≠ .bwait → i ≠ .cycle → i ≠ .display →
    ∀ e ∈ newEvents s t, e.isSample = false
end

