-- ==== Sys2Proof/Laws/State.lean ====
section
/-! SUPPORT. One lemma per field per plain update of State: what the update leaves there, by definition. -/

namespace Sys2Proof.Machine

variable (s : State)

@[simp] theorem emit_cfg (e : Event) : (emit e s).cfg = s.cfg := rfl
@[simp] theorem emit_prog (e : Event) : (emit e s).prog = s.prog := rfl
@[simp] theorem emit_env (e : Event) : (emit e s).env = s.env := rfl
@[simp] theorem emit_pc (e : Event) : (emit e s).pc = s.pc := rfl
@[simp] theorem emit_trace (e : Event) : (emit e s).trace = s.trace ++ [e] := rfl
@[simp] theorem emit_csm (e : Event) : (emit e s).csm = s.csm := rfl
@[simp] theorem emit_css (e : Event) : (emit e s).css = s.css := rfl
@[simp] theorem emit_dc (e : Event) : (emit e s).dc = s.dc := rfl
@[simp] theorem emit_rst (e : Event) : (emit e s).rst = s.rst := rfl
@[simp] theorem emit_busyLast (e : Event) : (emit e s).busyLast = s.busyLast := rfl
@[simp] theorem emit_busyValid (e : Event) : (emit e s).busyValid = s.busyValid := rfl
@[simp] theorem emit_initialized (e : Event) : (emit e s).initialized = s.initialized := rfl
@[simp] theorem emit_power (e : Event) : (emit e s).power = s.power := rfl
@[simp] theorem emit_renderOk (e : Event) : (emit e s).renderOk = s.renderOk := rfl
@[simp] theorem emit_tout (e : Event) : (emit e s).tout = s.tout := rfl
@[simp] theorem emit_tocnt (e : Event) : (emit e s).tocnt = s.tocnt := rfl
@[simp] theorem emit_result (e : Event) : (emit e s).result = s.result := rfl
@[simp] theorem emit_rdata (e : Event) : (emit e s).rdata = s.rdata := rfl
@[simp] theorem emit_rprog (e : Event) : (emit e s).rprog = s.rprog := rfl
@[simp] theorem emit_phase (e : Event) : (emit e s).phase = s.phase := rfl
@[simp] theorem emit_work (e : Event) : (emit e s).work = s.work := rfl
@[simp] theorem emit_openFile (e : Event) : (emit e s).openFile = s.openFile := rfl

@[simp] theorem delay_cfg (d : Delay) : (delay d s).cfg = s.cfg := rfl
@[simp] theorem delay_prog (d : Delay) : (delay d s).prog = s.prog := rfl
@[simp] theorem delay_env (d : Delay) : (delay d s).env = s.env := rfl
@[simp] theorem delay_pc (d : Delay) : (delay d s).pc = s.pc := rfl
@[simp] theorem delay_trace (d : Delay) : (delay d s).trace = s.trace ++ [.delay d] := rfl
@[simp] theorem delay_csm (d : Delay) : (delay d s).csm = s.csm := rfl
@[simp] theorem delay_css (d : Delay) : (delay d s).css = s.css := rfl
@[simp] theorem delay_dc (d : Delay) : (delay d s).dc = s.dc := rfl
@[simp] theorem delay_rst (d : Delay) : (delay d s).rst = s.rst := rfl
@[simp] theorem delay_busyLast (d : Delay) : (delay d s).busyLast = s.busyLast := rfl
@[simp] theorem delay_busyValid (d : Delay) : (delay d s).busyValid = s.busyValid := rfl
@[simp] theorem delay_initialized (d : Delay) : (delay d s).initialized = s.initialized := rfl
@[simp] theorem delay_power (d : Delay) : (delay d s).power = s.power := rfl
@[simp] theorem delay_renderOk (d : Delay) : (delay d s).renderOk = s.renderOk := rfl
@[simp] theorem delay_tout (d : Delay) : (delay d s).tout = s.tout := rfl
@[simp] theorem delay_tocnt (d : Delay) : (delay d s).tocnt = s.tocnt := rfl
@[simp] theorem delay_result (d : Delay) : (delay d s).result = s.result := rfl
@[simp] theorem delay_rdata (d : Delay) : (delay d s).rdata = s.rdata := rfl
@[simp] theorem delay_rprog (d : Delay) : (delay d s).rprog = s.rprog := rfl
@[simp] theorem delay_phase (d : Delay) : (delay d s).phase = s.phase := rfl
@[simp] theorem delay_work (d : Delay) : (delay d s).work = s.work := rfl
@[simp] theorem delay_openFile (d : Delay) : (delay d s).openFile = s.openFile := rfl

@[simp] theorem setResult_cfg (r : ResultCode) : (setResult r s).cfg = s.cfg := rfl
@[simp] theorem setResult_prog (r : ResultCode) : (setResult r s).prog = s.prog := rfl
@[simp] theorem setResult_env (r : ResultCode) : (setResult r s).env = s.env := rfl
@[simp] theorem setResult_pc (r : ResultCode) : (setResult r s).pc = s.pc := rfl
@[simp] theorem setResult_trace (r : ResultCode) : (setResult r s).trace = s.trace := rfl
@[simp] theorem setResult_csm (r : ResultCode) : (setResult r s).csm = s.csm := rfl
@[simp] theorem setResult_css (r : ResultCode) : (setResult r s).css = s.css := rfl
@[simp] theorem setResult_dc (r : ResultCode) : (setResult r s).dc = s.dc := rfl
@[simp] theorem setResult_rst (r : ResultCode) : (setResult r s).rst = s.rst := rfl
@[simp] theorem setResult_busyLast (r : ResultCode) : (setResult r s).busyLast = s.busyLast := rfl
@[simp] theorem setResult_busyValid (r : ResultCode) : (setResult r s).busyValid = s.busyValid := rfl
@[simp] theorem setResult_initialized (r : ResultCode) : (setResult r s).initialized = s.initialized := rfl
@[simp] theorem setResult_power (r : ResultCode) : (setResult r s).power = s.power := rfl
@[simp] theorem setResult_renderOk (r : ResultCode) : (setResult r s).renderOk = s.renderOk := rfl
@[simp] theorem setResult_tout (r : ResultCode) : (setResult r s).tout = s.tout := rfl
@[simp] theorem setResult_tocnt (r : ResultCode) : (setResult r s).tocnt = s.tocnt := rfl
@[simp] theorem setResult_result (r : ResultCode) : (setResult r s).result = r.code := rfl
@[simp] theorem setResult_rdata (r : ResultCode) : (setResult r s).rdata = s.rdata := rfl
@[simp] theorem setResult_rprog (r : ResultCode) : (setResult r s).rprog = s.rprog := rfl
@[simp] theorem setResult_phase (r : ResultCode) : (setResult r s).phase = s.phase := rfl
@[simp] theorem setResult_work (r : ResultCode) : (setResult r s).work = s.work := rfl
@[simp] theorem setResult_openFile (r : ResultCode) : (setResult r s).openFile = s.openFile := rfl

@[simp] theorem forgetWork_cfg : (forgetWork s).cfg = s.cfg := rfl
@[simp] theorem forgetWork_prog : (forgetWork s).prog = s.prog := rfl
@[simp] theorem forgetWork_env : (forgetWork s).env = { s.env with draws := s.env.draws + 1 } := rfl
@[simp] theorem forgetWork_pc : (forgetWork s).pc = s.pc := rfl
@[simp] theorem forgetWork_trace : (forgetWork s).trace = s.trace := rfl
@[simp] theorem forgetWork_csm : (forgetWork s).csm = s.csm := rfl
@[simp] theorem forgetWork_css : (forgetWork s).css = s.css := rfl
@[simp] theorem forgetWork_dc : (forgetWork s).dc = s.dc := rfl
@[simp] theorem forgetWork_rst : (forgetWork s).rst = s.rst := rfl
@[simp] theorem forgetWork_busyLast : (forgetWork s).busyLast = s.busyLast := rfl
@[simp] theorem forgetWork_busyValid : (forgetWork s).busyValid = s.busyValid := rfl
@[simp] theorem forgetWork_initialized : (forgetWork s).initialized = s.initialized := rfl
@[simp] theorem forgetWork_power : (forgetWork s).power = s.power := rfl
@[simp] theorem forgetWork_renderOk : (forgetWork s).renderOk = s.renderOk := rfl
@[simp] theorem forgetWork_tout : (forgetWork s).tout = s.tout := rfl
@[simp] theorem forgetWork_tocnt : (forgetWork s).tocnt = s.tocnt := rfl
@[simp] theorem forgetWork_result : (forgetWork s).result = s.result := rfl
@[simp] theorem forgetWork_rdata : (forgetWork s).rdata = s.rdata := rfl
@[simp] theorem forgetWork_rprog : (forgetWork s).rprog = s.rprog := rfl
@[simp] theorem forgetWork_phase : (forgetWork s).phase = s.phase := rfl
@[simp] theorem forgetWork_work : (forgetWork s).work = Config.freeWork s.env.draws := rfl
@[simp] theorem forgetWork_openFile : (forgetWork s).openFile = s.openFile := rfl

@[simp] theorem takeOp_cfg (i : Instr) : (takeOp i s).cfg = s.cfg := rfl
@[simp] theorem takeOp_prog (i : Instr) : (takeOp i s).prog = s.prog := rfl
@[simp] theorem takeOp_env (i : Instr) : (takeOp i s).env = s.env := rfl
@[simp] theorem takeOp_pc (i : Instr) : (takeOp i s).pc = s.pc + i.words := rfl
@[simp] theorem takeOp_trace (i : Instr) : (takeOp i s).trace = s.trace := rfl
@[simp] theorem takeOp_csm (i : Instr) : (takeOp i s).csm = s.csm := rfl
@[simp] theorem takeOp_css (i : Instr) : (takeOp i s).css = s.css := rfl
@[simp] theorem takeOp_dc (i : Instr) : (takeOp i s).dc = s.dc := rfl
@[simp] theorem takeOp_rst (i : Instr) : (takeOp i s).rst = s.rst := rfl
@[simp] theorem takeOp_busyLast (i : Instr) : (takeOp i s).busyLast = s.busyLast := rfl
@[simp] theorem takeOp_busyValid (i : Instr) : (takeOp i s).busyValid = s.busyValid := rfl
@[simp] theorem takeOp_initialized (i : Instr) : (takeOp i s).initialized = s.initialized := rfl
@[simp] theorem takeOp_power (i : Instr) : (takeOp i s).power = s.power := rfl
@[simp] theorem takeOp_renderOk (i : Instr) : (takeOp i s).renderOk = s.renderOk := rfl
@[simp] theorem takeOp_tout (i : Instr) : (takeOp i s).tout = s.tout := rfl
@[simp] theorem takeOp_tocnt (i : Instr) : (takeOp i s).tocnt = s.tocnt := rfl
@[simp] theorem takeOp_result (i : Instr) : (takeOp i s).result = s.result := rfl
@[simp] theorem takeOp_rdata (i : Instr) : (takeOp i s).rdata = s.rdata := rfl
@[simp] theorem takeOp_rprog (i : Instr) : (takeOp i s).rprog = s.rprog := rfl
@[simp] theorem takeOp_phase (i : Instr) : (takeOp i s).phase = .executing i 0 := rfl
@[simp] theorem takeOp_work (i : Instr) : (takeOp i s).work = s.work := rfl
@[simp] theorem takeOp_openFile (i : Instr) : (takeOp i s).openFile = s.openFile := rfl

@[simp] theorem dropM_cfg : (dropM s).cfg = s.cfg := rfl
@[simp] theorem dropM_prog : (dropM s).prog = s.prog := rfl
@[simp] theorem dropM_env : (dropM s).env = s.env := rfl
@[simp] theorem dropM_pc : (dropM s).pc = s.pc := rfl
@[simp] theorem dropM_trace : (dropM s).trace = s.trace ++ [.line .csM (s.cfg.csLevel false)] := rfl
@[simp] theorem dropM_csm : (dropM s).csm = false := rfl
@[simp] theorem dropM_css : (dropM s).css = s.css := rfl
@[simp] theorem dropM_dc : (dropM s).dc = s.dc := rfl
@[simp] theorem dropM_rst : (dropM s).rst = s.rst := rfl
@[simp] theorem dropM_busyLast : (dropM s).busyLast = s.busyLast := rfl
@[simp] theorem dropM_busyValid : (dropM s).busyValid = s.busyValid := rfl
@[simp] theorem dropM_initialized : (dropM s).initialized = s.initialized := rfl
@[simp] theorem dropM_power : (dropM s).power = s.power := rfl
@[simp] theorem dropM_renderOk : (dropM s).renderOk = s.renderOk := rfl
@[simp] theorem dropM_tout : (dropM s).tout = s.tout := rfl
@[simp] theorem dropM_tocnt : (dropM s).tocnt = s.tocnt := rfl
@[simp] theorem dropM_result : (dropM s).result = s.result := rfl
@[simp] theorem dropM_rdata : (dropM s).rdata = s.rdata := rfl
@[simp] theorem dropM_rprog : (dropM s).rprog = s.rprog := rfl
@[simp] theorem dropM_phase : (dropM s).phase = s.phase := rfl
@[simp] theorem dropM_work : (dropM s).work = s.work := rfl
@[simp] theorem dropM_openFile : (dropM s).openFile = s.openFile := rfl

@[simp] theorem dropS_cfg : (dropS s).cfg = s.cfg := rfl
@[simp] theorem dropS_prog : (dropS s).prog = s.prog := rfl
@[simp] theorem dropS_env : (dropS s).env = s.env := rfl
@[simp] theorem dropS_pc : (dropS s).pc = s.pc := rfl
@[simp] theorem dropS_trace : (dropS s).trace = s.trace ++ [.line .csS (s.cfg.csLevel false)] := rfl
@[simp] theorem dropS_csm : (dropS s).csm = s.csm := rfl
@[simp] theorem dropS_css : (dropS s).css = false := rfl
@[simp] theorem dropS_dc : (dropS s).dc = s.dc := rfl
@[simp] theorem dropS_rst : (dropS s).rst = s.rst := rfl
@[simp] theorem dropS_busyLast : (dropS s).busyLast = s.busyLast := rfl
@[simp] theorem dropS_busyValid : (dropS s).busyValid = s.busyValid := rfl
@[simp] theorem dropS_initialized : (dropS s).initialized = s.initialized := rfl
@[simp] theorem dropS_power : (dropS s).power = s.power := rfl
@[simp] theorem dropS_renderOk : (dropS s).renderOk = s.renderOk := rfl
@[simp] theorem dropS_tout : (dropS s).tout = s.tout := rfl
@[simp] theorem dropS_tocnt : (dropS s).tocnt = s.tocnt := rfl
@[simp] theorem dropS_result : (dropS s).result = s.result := rfl
@[simp] theorem dropS_rdata : (dropS s).rdata = s.rdata := rfl
@[simp] theorem dropS_rprog : (dropS s).rprog = s.rprog := rfl
@[simp] theorem dropS_phase : (dropS s).phase = s.phase := rfl
@[simp] theorem dropS_work : (dropS s).work = s.work := rfl
@[simp] theorem dropS_openFile : (dropS s).openFile = s.openFile := rfl

@[simp] theorem raiseM_cfg : (raiseM s).cfg = s.cfg := rfl
@[simp] theorem raiseM_prog : (raiseM s).prog = s.prog := rfl
@[simp] theorem raiseM_env : (raiseM s).env = s.env := rfl
@[simp] theorem raiseM_pc : (raiseM s).pc = s.pc := rfl
@[simp] theorem raiseM_trace : (raiseM s).trace = s.trace ++ [.line .csM (s.cfg.csLevel true)] := rfl
@[simp] theorem raiseM_csm : (raiseM s).csm = true := rfl
@[simp] theorem raiseM_css : (raiseM s).css = s.css := rfl
@[simp] theorem raiseM_dc : (raiseM s).dc = s.dc := rfl
@[simp] theorem raiseM_rst : (raiseM s).rst = s.rst := rfl
@[simp] theorem raiseM_busyLast : (raiseM s).busyLast = s.busyLast := rfl
@[simp] theorem raiseM_busyValid : (raiseM s).busyValid = s.busyValid := rfl
@[simp] theorem raiseM_initialized : (raiseM s).initialized = s.initialized := rfl
@[simp] theorem raiseM_power : (raiseM s).power = s.power := rfl
@[simp] theorem raiseM_renderOk : (raiseM s).renderOk = s.renderOk := rfl
@[simp] theorem raiseM_tout : (raiseM s).tout = s.tout := rfl
@[simp] theorem raiseM_tocnt : (raiseM s).tocnt = s.tocnt := rfl
@[simp] theorem raiseM_result : (raiseM s).result = s.result := rfl
@[simp] theorem raiseM_rdata : (raiseM s).rdata = s.rdata := rfl
@[simp] theorem raiseM_rprog : (raiseM s).rprog = s.rprog := rfl
@[simp] theorem raiseM_phase : (raiseM s).phase = s.phase := rfl
@[simp] theorem raiseM_work : (raiseM s).work = s.work := rfl
@[simp] theorem raiseM_openFile : (raiseM s).openFile = s.openFile := rfl

@[simp] theorem raiseS_cfg : (raiseS s).cfg = s.cfg := rfl
@[simp] theorem raiseS_prog : (raiseS s).prog = s.prog := rfl
@[simp] theorem raiseS_env : (raiseS s).env = s.env := rfl
@[simp] theorem raiseS_pc : (raiseS s).pc = s.pc := rfl
@[simp] theorem raiseS_trace : (raiseS s).trace = s.trace ++ [.line .csS (s.cfg.csLevel true)] := rfl
@[simp] theorem raiseS_csm : (raiseS s).csm = s.csm := rfl
@[simp] theorem raiseS_css : (raiseS s).css = true := rfl
@[simp] theorem raiseS_dc : (raiseS s).dc = s.dc := rfl
@[simp] theorem raiseS_rst : (raiseS s).rst = s.rst := rfl
@[simp] theorem raiseS_busyLast : (raiseS s).busyLast = s.busyLast := rfl
@[simp] theorem raiseS_busyValid : (raiseS s).busyValid = s.busyValid := rfl
@[simp] theorem raiseS_initialized : (raiseS s).initialized = s.initialized := rfl
@[simp] theorem raiseS_power : (raiseS s).power = s.power := rfl
@[simp] theorem raiseS_renderOk : (raiseS s).renderOk = s.renderOk := rfl
@[simp] theorem raiseS_tout : (raiseS s).tout = s.tout := rfl
@[simp] theorem raiseS_tocnt : (raiseS s).tocnt = s.tocnt := rfl
@[simp] theorem raiseS_result : (raiseS s).result = s.result := rfl
@[simp] theorem raiseS_rdata : (raiseS s).rdata = s.rdata := rfl
@[simp] theorem raiseS_rprog : (raiseS s).rprog = s.rprog := rfl
@[simp] theorem raiseS_phase : (raiseS s).phase = s.phase := rfl
@[simp] theorem raiseS_work : (raiseS s).work = s.work := rfl
@[simp] theorem raiseS_openFile : (raiseS s).openFile = s.openFile := rfl

@[simp] theorem xferByte_cfg (b : Byte) : (xferByte b s).cfg = s.cfg := rfl
@[simp] theorem xferByte_prog (b : Byte) : (xferByte b s).prog = s.prog := rfl
@[simp] theorem xferByte_env (b : Byte) : (xferByte b s).env = s.env := rfl
@[simp] theorem xferByte_pc (b : Byte) : (xferByte b s).pc = s.pc := rfl
@[simp] theorem xferByte_trace (b : Byte) : (xferByte b s).trace = s.trace ++ [.xfer s.dc s.sel b] := rfl
@[simp] theorem xferByte_csm (b : Byte) : (xferByte b s).csm = s.csm := rfl
@[simp] theorem xferByte_css (b : Byte) : (xferByte b s).css = s.css := rfl
@[simp] theorem xferByte_dc (b : Byte) : (xferByte b s).dc = s.dc := rfl
@[simp] theorem xferByte_rst (b : Byte) : (xferByte b s).rst = s.rst := rfl
@[simp] theorem xferByte_busyLast (b : Byte) : (xferByte b s).busyLast = s.busyLast := rfl
@[simp] theorem xferByte_busyValid (b : Byte) : (xferByte b s).busyValid = s.busyValid := rfl
@[simp] theorem xferByte_initialized (b : Byte) : (xferByte b s).initialized = s.initialized := rfl
@[simp] theorem xferByte_power (b : Byte) : (xferByte b s).power = s.power := rfl
@[simp] theorem xferByte_renderOk (b : Byte) : (xferByte b s).renderOk = s.renderOk := rfl
@[simp] theorem xferByte_tout (b : Byte) : (xferByte b s).tout = s.tout := rfl
@[simp] theorem xferByte_tocnt (b : Byte) : (xferByte b s).tocnt = s.tocnt := rfl
@[simp] theorem xferByte_result (b : Byte) : (xferByte b s).result = s.result := rfl
@[simp] theorem xferByte_rdata (b : Byte) : (xferByte b s).rdata = s.rdata := rfl
@[simp] theorem xferByte_rprog (b : Byte) : (xferByte b s).rprog = s.rprog := rfl
@[simp] theorem xferByte_phase (b : Byte) : (xferByte b s).phase = s.phase := rfl
@[simp] theorem xferByte_work (b : Byte) : (xferByte b s).work = s.work := rfl
@[simp] theorem xferByte_openFile (b : Byte) : (xferByte b s).openFile = s.openFile := rfl

@[simp] theorem busCmd_cfg (b : Byte) : (busCmd b s).cfg = s.cfg := rfl
@[simp] theorem busCmd_prog (b : Byte) : (busCmd b s).prog = s.prog := rfl
@[simp] theorem busCmd_env (b : Byte) : (busCmd b s).env = s.env := rfl
@[simp] theorem busCmd_pc (b : Byte) : (busCmd b s).pc = s.pc := rfl
@[simp] theorem busCmd_trace (b : Byte) : (busCmd b s).trace = s.trace ++ [.xfer s.cfg.dcCmd s.sel b] := rfl
@[simp] theorem busCmd_csm (b : Byte) : (busCmd b s).csm = s.csm := rfl
@[simp] theorem busCmd_css (b : Byte) : (busCmd b s).css = s.css := rfl
@[simp] theorem busCmd_dc (b : Byte) : (busCmd b s).dc = s.cfg.dcCmd := rfl
@[simp] theorem busCmd_rst (b : Byte) : (busCmd b s).rst = s.rst := rfl
@[simp] theorem busCmd_busyLast (b : Byte) : (busCmd b s).busyLast = s.busyLast := rfl
@[simp] theorem busCmd_busyValid (b : Byte) : (busCmd b s).busyValid = s.busyValid := rfl
@[simp] theorem busCmd_initialized (b : Byte) : (busCmd b s).initialized = s.initialized := rfl
@[simp] theorem busCmd_power (b : Byte) : (busCmd b s).power = s.power := rfl
@[simp] theorem busCmd_renderOk (b : Byte) : (busCmd b s).renderOk = s.renderOk := rfl
@[simp] theorem busCmd_tout (b : Byte) : (busCmd b s).tout = s.tout := rfl
@[simp] theorem busCmd_tocnt (b : Byte) : (busCmd b s).tocnt = s.tocnt := rfl
@[simp] theorem busCmd_result (b : Byte) : (busCmd b s).result = s.result := rfl
@[simp] theorem busCmd_rdata (b : Byte) : (busCmd b s).rdata = s.rdata := rfl
@[simp] theorem busCmd_rprog (b : Byte) : (busCmd b s).rprog = s.rprog := rfl
@[simp] theorem busCmd_phase (b : Byte) : (busCmd b s).phase = s.phase := rfl
@[simp] theorem busCmd_work (b : Byte) : (busCmd b s).work = s.work := rfl
@[simp] theorem busCmd_openFile (b : Byte) : (busCmd b s).openFile = s.openFile := rfl

@[simp] theorem busData_cfg (b : Byte) : (busData b s).cfg = s.cfg := rfl
@[simp] theorem busData_prog (b : Byte) : (busData b s).prog = s.prog := rfl
@[simp] theorem busData_env (b : Byte) : (busData b s).env = s.env := rfl
@[simp] theorem busData_pc (b : Byte) : (busData b s).pc = s.pc := rfl
@[simp] theorem busData_trace (b : Byte) : (busData b s).trace = s.trace ++ [.xfer s.cfg.dcData s.sel b] := rfl
@[simp] theorem busData_csm (b : Byte) : (busData b s).csm = s.csm := rfl
@[simp] theorem busData_css (b : Byte) : (busData b s).css = s.css := rfl
@[simp] theorem busData_dc (b : Byte) : (busData b s).dc = s.cfg.dcData := rfl
@[simp] theorem busData_rst (b : Byte) : (busData b s).rst = s.rst := rfl
@[simp] theorem busData_busyLast (b : Byte) : (busData b s).busyLast = s.busyLast := rfl
@[simp] theorem busData_busyValid (b : Byte) : (busData b s).busyValid = s.busyValid := rfl
@[simp] theorem busData_initialized (b : Byte) : (busData b s).initialized = s.initialized := rfl
@[simp] theorem busData_power (b : Byte) : (busData b s).power = s.power := rfl
@[simp] theorem busData_renderOk (b : Byte) : (busData b s).renderOk = s.renderOk := rfl
@[simp] theorem busData_tout (b : Byte) : (busData b s).tout = s.tout := rfl
@[simp] theorem busData_tocnt (b : Byte) : (busData b s).tocnt = s.tocnt := rfl
@[simp] theorem busData_result (b : Byte) : (busData b s).result = s.result := rfl
@[simp] theorem busData_rdata (b : Byte) : (busData b s).rdata = s.rdata := rfl
@[simp] theorem busData_rprog (b : Byte) : (busData b s).rprog = s.rprog := rfl
@[simp] theorem busData_phase (b : Byte) : (busData b s).phase = s.phase := rfl
@[simp] theorem busData_work (b : Byte) : (busData b s).work = s.work := rfl
@[simp] theorem busData_openFile (b : Byte) : (busData b s).openFile = s.openFile := rfl

@[simp] theorem resetStep_cfg (i : Nat) (st : ResetStep) : (resetStep i st s).cfg = s.cfg := rfl
@[simp] theorem resetStep_prog (i : Nat) (st : ResetStep) : (resetStep i st s).prog = s.prog := rfl
@[simp] theorem resetStep_env (i : Nat) (st : ResetStep) : (resetStep i st s).env = s.env := rfl
@[simp] theorem resetStep_pc (i : Nat) (st : ResetStep) : (resetStep i st s).pc = s.pc := rfl
@[simp] theorem resetStep_trace (i : Nat) (st : ResetStep) : (resetStep i st s).trace = s.trace ++ [.line .rst st.level] ++ [.delay (.resetStep i)] := rfl
@[simp] theorem resetStep_csm (i : Nat) (st : ResetStep) : (resetStep i st s).csm = s.csm := rfl
@[simp] theorem resetStep_css (i : Nat) (st : ResetStep) : (resetStep i st s).css = s.css := rfl
@[simp] theorem resetStep_dc (i : Nat) (st : ResetStep) : (resetStep i st s).dc = s.dc := rfl
@[simp] theorem resetStep_rst (i : Nat) (st : ResetStep) : (resetStep i st s).rst = st.level := rfl
@[simp] theorem resetStep_busyLast (i : Nat) (st : ResetStep) : (resetStep i st s).busyLast = s.busyLast := rfl
@[simp] theorem resetStep_busyValid (i : Nat) (st : ResetStep) : (resetStep i st s).busyValid = s.busyValid := rfl
@[simp] theorem resetStep_initialized (i : Nat) (st : ResetStep) : (resetStep i st s).initialized = s.initialized := rfl
@[simp] theorem resetStep_power (i : Nat) (st : ResetStep) : (resetStep i st s).power = s.power := rfl
@[simp] theorem resetStep_renderOk (i : Nat) (st : ResetStep) : (resetStep i st s).renderOk = s.renderOk := rfl
@[simp] theorem resetStep_tout (i : Nat) (st : ResetStep) : (resetStep i st s).tout = s.tout := rfl
@[simp] theorem resetStep_tocnt (i : Nat) (st : ResetStep) : (resetStep i st s).tocnt = s.tocnt := rfl
@[simp] theorem resetStep_result (i : Nat) (st : ResetStep) : (resetStep i st s).result = s.result := rfl
@[simp] theorem resetStep_rdata (i : Nat) (st : ResetStep) : (resetStep i st s).rdata = s.rdata := rfl
@[simp] theorem resetStep_rprog (i : Nat) (st : ResetStep) : (resetStep i st s).rprog = s.rprog := rfl
@[simp] theorem resetStep_phase (i : Nat) (st : ResetStep) : (resetStep i st s).phase = s.phase := rfl
@[simp] theorem resetStep_work (i : Nat) (st : ResetStep) : (resetStep i st s).work = s.work := rfl
@[simp] theorem resetStep_openFile (i : Nat) (st : ResetStep) : (resetStep i st s).openFile = s.openFile := rfl

@[simp] theorem seekStart_cfg : (seekStart s).cfg = s.cfg := rfl
@[simp] theorem seekStart_prog : (seekStart s).prog = s.prog := rfl
@[simp] theorem seekStart_env : (seekStart s).env = s.env := rfl
@[simp] theorem seekStart_pc : (seekStart s).pc = s.pc := rfl
@[simp] theorem seekStart_trace : (seekStart s).trace = s.trace ++ [.sseek 0] := rfl
@[simp] theorem seekStart_csm : (seekStart s).csm = s.csm := rfl
@[simp] theorem seekStart_css : (seekStart s).css = s.css := rfl
@[simp] theorem seekStart_dc : (seekStart s).dc = s.dc := rfl
@[simp] theorem seekStart_rst : (seekStart s).rst = s.rst := rfl
@[simp] theorem seekStart_busyLast : (seekStart s).busyLast = s.busyLast := rfl
@[simp] theorem seekStart_busyValid : (seekStart s).busyValid = s.busyValid := rfl
@[simp] theorem seekStart_initialized : (seekStart s).initialized = s.initialized := rfl
@[simp] theorem seekStart_power : (seekStart s).power = s.power := rfl
@[simp] theorem seekStart_renderOk : (seekStart s).renderOk = s.renderOk := rfl
@[simp] theorem seekStart_tout : (seekStart s).tout = s.tout := rfl
@[simp] theorem seekStart_tocnt : (seekStart s).tocnt = s.tocnt := rfl
@[simp] theorem seekStart_result : (seekStart s).result = s.result := rfl
@[simp] theorem seekStart_rdata : (seekStart s).rdata = s.rdata := rfl
@[simp] theorem seekStart_rprog : (seekStart s).rprog = s.rprog := rfl
@[simp] theorem seekStart_phase : (seekStart s).phase = s.phase := rfl
@[simp] theorem seekStart_work : (seekStart s).work = { s.work with cur := 0 } := rfl
@[simp] theorem seekStart_openFile : (seekStart s).openFile = s.openFile := rfl

@[simp] theorem advanceCur_cfg (n : Nat) : (advanceCur n s).cfg = s.cfg := rfl
@[simp] theorem advanceCur_prog (n : Nat) : (advanceCur n s).prog = s.prog := rfl
@[simp] theorem advanceCur_env (n : Nat) : (advanceCur n s).env = s.env := rfl
@[simp] theorem advanceCur_pc (n : Nat) : (advanceCur n s).pc = s.pc := rfl
@[simp] theorem advanceCur_trace (n : Nat) : (advanceCur n s).trace = s.trace := rfl
@[simp] theorem advanceCur_csm (n : Nat) : (advanceCur n s).csm = s.csm := rfl
@[simp] theorem advanceCur_css (n : Nat) : (advanceCur n s).css = s.css := rfl
@[simp] theorem advanceCur_dc (n : Nat) : (advanceCur n s).dc = s.dc := rfl
@[simp] theorem advanceCur_rst (n : Nat) : (advanceCur n s).rst = s.rst := rfl
@[simp] theorem advanceCur_busyLast (n : Nat) : (advanceCur n s).busyLast = s.busyLast := rfl
@[simp] theorem advanceCur_busyValid (n : Nat) : (advanceCur n s).busyValid = s.busyValid := rfl
@[simp] theorem advanceCur_initialized (n : Nat) : (advanceCur n s).initialized = s.initialized := rfl
@[simp] theorem advanceCur_power (n : Nat) : (advanceCur n s).power = s.power := rfl
@[simp] theorem advanceCur_renderOk (n : Nat) : (advanceCur n s).renderOk = s.renderOk := rfl
@[simp] theorem advanceCur_tout (n : Nat) : (advanceCur n s).tout = s.tout := rfl
@[simp] theorem advanceCur_tocnt (n : Nat) : (advanceCur n s).tocnt = s.tocnt := rfl
@[simp] theorem advanceCur_result (n : Nat) : (advanceCur n s).result = s.result := rfl
@[simp] theorem advanceCur_rdata (n : Nat) : (advanceCur n s).rdata = s.rdata := rfl
@[simp] theorem advanceCur_rprog (n : Nat) : (advanceCur n s).rprog = s.rprog := rfl
@[simp] theorem advanceCur_phase (n : Nat) : (advanceCur n s).phase = s.phase := rfl
@[simp] theorem advanceCur_work (n : Nat) : (advanceCur n s).work = { s.work with cur := s.work.cur + n } := rfl
@[simp] theorem advanceCur_openFile (n : Nat) : (advanceCur n s).openFile = s.openFile := rfl

@[simp] theorem closeFile_cfg : (closeFile s).cfg = s.cfg := rfl
@[simp] theorem closeFile_prog : (closeFile s).prog = s.prog := rfl
@[simp] theorem closeFile_env : (closeFile s).env = s.env := rfl
@[simp] theorem closeFile_pc : (closeFile s).pc = s.pc := rfl
@[simp] theorem closeFile_trace : (closeFile s).trace = s.trace ++ [.sclose] := rfl
@[simp] theorem closeFile_csm : (closeFile s).csm = s.csm := rfl
@[simp] theorem closeFile_css : (closeFile s).css = s.css := rfl
@[simp] theorem closeFile_dc : (closeFile s).dc = s.dc := rfl
@[simp] theorem closeFile_rst : (closeFile s).rst = s.rst := rfl
@[simp] theorem closeFile_busyLast : (closeFile s).busyLast = s.busyLast := rfl
@[simp] theorem closeFile_busyValid : (closeFile s).busyValid = s.busyValid := rfl
@[simp] theorem closeFile_initialized : (closeFile s).initialized = s.initialized := rfl
@[simp] theorem closeFile_power : (closeFile s).power = s.power := rfl
@[simp] theorem closeFile_renderOk : (closeFile s).renderOk = s.renderOk := rfl
@[simp] theorem closeFile_tout : (closeFile s).tout = s.tout := rfl
@[simp] theorem closeFile_tocnt : (closeFile s).tocnt = s.tocnt := rfl
@[simp] theorem closeFile_result : (closeFile s).result = s.result := rfl
@[simp] theorem closeFile_rdata : (closeFile s).rdata = s.rdata := rfl
@[simp] theorem closeFile_rprog : (closeFile s).rprog = s.rprog := rfl
@[simp] theorem closeFile_phase : (closeFile s).phase = s.phase := rfl
@[simp] theorem closeFile_work : (closeFile s).work = s.work := rfl
@[simp] theorem closeFile_openFile : (closeFile s).openFile = none := rfl

@[simp] theorem setProgress_cfg (p : Pass) (n : Nat) : (setProgress p n s).cfg = s.cfg := rfl
@[simp] theorem setProgress_prog (p : Pass) (n : Nat) : (setProgress p n s).prog = s.prog := rfl
@[simp] theorem setProgress_env (p : Pass) (n : Nat) : (setProgress p n s).env = s.env := rfl
@[simp] theorem setProgress_pc (p : Pass) (n : Nat) : (setProgress p n s).pc = s.pc := rfl
@[simp] theorem setProgress_trace (p : Pass) (n : Nat) : (setProgress p n s).trace = s.trace := rfl
@[simp] theorem setProgress_csm (p : Pass) (n : Nat) : (setProgress p n s).csm = s.csm := rfl
@[simp] theorem setProgress_css (p : Pass) (n : Nat) : (setProgress p n s).css = s.css := rfl
@[simp] theorem setProgress_dc (p : Pass) (n : Nat) : (setProgress p n s).dc = s.dc := rfl
@[simp] theorem setProgress_rst (p : Pass) (n : Nat) : (setProgress p n s).rst = s.rst := rfl
@[simp] theorem setProgress_busyLast (p : Pass) (n : Nat) : (setProgress p n s).busyLast = s.busyLast := rfl
@[simp] theorem setProgress_busyValid (p : Pass) (n : Nat) : (setProgress p n s).busyValid = s.busyValid := rfl
@[simp] theorem setProgress_initialized (p : Pass) (n : Nat) : (setProgress p n s).initialized = s.initialized := rfl
@[simp] theorem setProgress_power (p : Pass) (n : Nat) : (setProgress p n s).power = s.power := rfl
@[simp] theorem setProgress_renderOk (p : Pass) (n : Nat) : (setProgress p n s).renderOk = s.renderOk := rfl
@[simp] theorem setProgress_tout (p : Pass) (n : Nat) : (setProgress p n s).tout = s.tout := rfl
@[simp] theorem setProgress_tocnt (p : Pass) (n : Nat) : (setProgress p n s).tocnt = s.tocnt := rfl
@[simp] theorem setProgress_result (p : Pass) (n : Nat) : (setProgress p n s).result = s.result := rfl
@[simp] theorem setProgress_rdata (p : Pass) (n : Nat) : (setProgress p n s).rdata = s.rdata := rfl
@[simp] theorem setProgress_rprog (p : Pass) (n : Nat) : (setProgress p n s).rprog = { pass := p, rows := BitVec.ofNat 11 n } := rfl
@[simp] theorem setProgress_phase (p : Pass) (n : Nat) : (setProgress p n s).phase = s.phase := rfl
@[simp] theorem setProgress_work (p : Pass) (n : Nat) : (setProgress p n s).work = s.work := rfl
@[simp] theorem setProgress_openFile (p : Pass) (n : Nat) : (setProgress p n s).openFile = s.openFile := rfl

@[simp] theorem startRow_cfg (r : Nat) : (startRow r s).cfg = s.cfg := rfl
@[simp] theorem startRow_prog (r : Nat) : (startRow r s).prog = s.prog := rfl
@[simp] theorem startRow_env (r : Nat) : (startRow r s).env = s.env := rfl
@[simp] theorem startRow_pc (r : Nat) : (startRow r s).pc = s.pc := rfl
@[simp] theorem startRow_trace (r : Nat) : (startRow r s).trace = s.trace := rfl
@[simp] theorem startRow_csm (r : Nat) : (startRow r s).csm = s.csm := rfl
@[simp] theorem startRow_css (r : Nat) : (startRow r s).css = s.css := rfl
@[simp] theorem startRow_dc (r : Nat) : (startRow r s).dc = s.dc := rfl
@[simp] theorem startRow_rst (r : Nat) : (startRow r s).rst = s.rst := rfl
@[simp] theorem startRow_busyLast (r : Nat) : (startRow r s).busyLast = s.busyLast := rfl
@[simp] theorem startRow_busyValid (r : Nat) : (startRow r s).busyValid = s.busyValid := rfl
@[simp] theorem startRow_initialized (r : Nat) : (startRow r s).initialized = s.initialized := rfl
@[simp] theorem startRow_power (r : Nat) : (startRow r s).power = s.power := rfl
@[simp] theorem startRow_renderOk (r : Nat) : (startRow r s).renderOk = s.renderOk := rfl
@[simp] theorem startRow_tout (r : Nat) : (startRow r s).tout = s.tout := rfl
@[simp] theorem startRow_tocnt (r : Nat) : (startRow r s).tocnt = s.tocnt := rfl
@[simp] theorem startRow_result (r : Nat) : (startRow r s).result = s.result := rfl
@[simp] theorem startRow_rdata (r : Nat) : (startRow r s).rdata = s.rdata := rfl
@[simp] theorem startRow_rprog (r : Nat) : (startRow r s).rprog = s.rprog := rfl
@[simp] theorem startRow_phase (r : Nat) : (startRow r s).phase = s.phase := rfl
@[simp] theorem startRow_work (r : Nat) : (startRow r s).work = { s.work with row := r } := rfl
@[simp] theorem startRow_openFile (r : Nat) : (startRow r s).openFile = s.openFile := rfl

@[simp] theorem clearPanelState_cfg : (clearPanelState s).cfg = s.cfg := rfl
@[simp] theorem clearPanelState_prog : (clearPanelState s).prog = s.prog := rfl
@[simp] theorem clearPanelState_env : (clearPanelState s).env = s.env := rfl
@[simp] theorem clearPanelState_pc : (clearPanelState s).pc = s.pc := rfl
@[simp] theorem clearPanelState_trace : (clearPanelState s).trace = s.trace := rfl
@[simp] theorem clearPanelState_csm : (clearPanelState s).csm = s.csm := rfl
@[simp] theorem clearPanelState_css : (clearPanelState s).css = s.css := rfl
@[simp] theorem clearPanelState_dc : (clearPanelState s).dc = s.dc := rfl
@[simp] theorem clearPanelState_rst : (clearPanelState s).rst = s.rst := rfl
@[simp] theorem clearPanelState_busyLast : (clearPanelState s).busyLast = s.busyLast := rfl
@[simp] theorem clearPanelState_busyValid : (clearPanelState s).busyValid = s.busyValid := rfl
@[simp] theorem clearPanelState_initialized : (clearPanelState s).initialized = false := rfl
@[simp] theorem clearPanelState_power : (clearPanelState s).power = .off := rfl
@[simp] theorem clearPanelState_renderOk : (clearPanelState s).renderOk = false := rfl
@[simp] theorem clearPanelState_tout : (clearPanelState s).tout = s.tout := rfl
@[simp] theorem clearPanelState_tocnt : (clearPanelState s).tocnt = s.tocnt := rfl
@[simp] theorem clearPanelState_result : (clearPanelState s).result = s.result := rfl
@[simp] theorem clearPanelState_rdata : (clearPanelState s).rdata = s.rdata := rfl
@[simp] theorem clearPanelState_rprog : (clearPanelState s).rprog = s.rprog := rfl
@[simp] theorem clearPanelState_phase : (clearPanelState s).phase = s.phase := rfl
@[simp] theorem clearPanelState_work : (clearPanelState s).work = s.work := rfl
@[simp] theorem clearPanelState_openFile : (clearPanelState s).openFile = s.openFile := rfl

end Sys2Proof.Machine
end

