-- ==== Sys2Proof/Laws/Ops.lean ====
section
/-! SUPPORT. What each shared operation does, said once: a closed form as one update of the state. The proofs of later
files cite these and do not unfold the operations. -/

namespace Sys2Proof.Machine

/-! Chip-selects and transfers. -/

@[simp] theorem csLevel_false (c : Config) : c.csLevel false = c.csActive.flip := rfl

@[simp] theorem csLevel_true (c : Config) : c.csLevel true = c.csActive := rfl

/-- `bus_sel(t)` in full (R103). -/
theorem busSel_eq (t : Target) (s : State) :
    busSel t s
      = { s with csm := t.hasM, css := t.hasS, trace := s.trace ++ selEvents s.cfg s.csm s.css t } := by
  obtain ⟨_, _, _, _, _, csm, css, _⟩ := s
  cases t <;> cases csm <;> cases css <;>
    simp [busSel, dropM, dropS, raiseM, raiseS, emit, selEvents, Target.hasM, Target.hasS]

/-- `bus_desel(t)` in full (R106). -/
theorem busDesel_eq (t : Target) (s : State) :
    busDesel t s
      = { s with csm := s.csm && !t.hasM, css := s.css && !t.hasS
                 trace := s.trace ++ deselEvents s.cfg s.csm s.css t } := by
  obtain ⟨_, _, _, _, _, csm, css, _⟩ := s
  cases t <;> cases csm <;> cases css <;>
    simp [busDesel, dropM, dropS, emit, deselEvents, Target.hasM, Target.hasS]

theorem xferBytes_eq (bs : List Byte) (s : State) :
    xferBytes bs s = { s with trace := s.trace ++ bs.map (fun b => .xfer s.dc s.sel b) } := by
  induction bs generalizing s with
  | nil => simp [xferBytes]
  | cons b bs ih => rw [xferBytes, ih]; simp [xferByte, emit, State.sel]

/-- `bus_cmd(b)` in full (R112). -/
theorem busCmd_eq (b : Byte) (s : State) :
    busCmd b s = { s with dc := s.cfg.dcCmd, trace := s.trace ++ [.xfer s.cfg.dcCmd s.sel b] } := rfl

/-- `bus_data(b)` in full (R114). -/
theorem busData_eq (b : Byte) (s : State) :
    busData b s = { s with dc := s.cfg.dcData, trace := s.trace ++ [.xfer s.cfg.dcData s.sel b] } := rfl

/-- `bus_block(bs)` in full (R115). -/
theorem busBlock_eq (bs : List Byte) (s : State) :
    busBlock bs s
      = { s with dc := s.cfg.dcData, trace := s.trace ++ bs.map (fun b => .xfer s.cfg.dcData s.sel b) } := by
  rw [busBlock, xferBytes_eq]; rfl

/-- The discriminator level a transaction leaves (R108). -/
def dcAfter (c : Config) (ps : List Byte) : Level := if ps.isEmpty then c.dcCmd else c.dcData

/-- `xfer(t, c, ps)` in full (R118). -/
theorem xfer_eq (t : Target) (c : Byte) (ps : List Byte) (s : State) :
    xfer t c ps s
      = { s with csm := false, css := false, dc := dcAfter s.cfg ps
                 trace := s.trace ++ xferEvents s.cfg s.csm s.css t c ps } := by
  cases ps with
  | nil => simp [xfer, busSel_eq, busCmd_eq, busDesel_eq, xferEvents, dcAfter, State.sel, Target.sel]
  | cons p ps =>
    simp [xfer, busSel_eq, busCmd_eq, busBlock_eq, busDesel_eq, xferEvents, dcAfter, State.sel, Target.sel]

/-! The reset pulse and the init table. -/

theorem resetSteps_eq (i : Nat) (seq : List ResetStep) (s : State) :
    resetSteps i seq s
      = { s with rst := ((seq.getLast?).map ResetStep.level).getD s.rst, trace := s.trace ++ resetEventsFrom i seq } := by
  induction seq generalizing i s with
  | nil => simp [resetSteps, resetEventsFrom]
  | cons st rest ih =>
    rw [resetSteps, ih]
    cases rest with
    | nil => simp [resetStep, delay, emit, resetEventsFrom]
    | cons st' rest' =>
      simp [resetStep, delay, emit, resetEventsFrom, List.getLast?_eq_getLast_of_ne_nil]

/-- `reset_sequence()` in full (R130). -/
theorem resetSequence_eq (s : State) :
    resetSequence s
      = { s with rst := ((s.cfg.resetSeq.getLast?).map ResetStep.level).getD s.rst
                 trace := s.trace ++ resetEvents s.cfg } :=
  resetSteps_eq 0 s.cfg.resetSeq s

/-- The discriminator level an init table leaves (R108). -/
def dcAfterTable (c : Config) (dc : Level) : List InitEntry → Level
  | [] => dc
  | e :: es => dcAfterTable c (dcAfter c e.params) es

/-- The table index an init table leaves in the working state. -/
def idxAfterTable (old : Nat) : Nat → List InitEntry → Nat
  | _, [] => old
  | i, _ :: es => idxAfterTable i (i + 1) es

/-- The init table's transactions in full (R138). -/
theorem initEntries_eq (i : Nat) (es : List InitEntry) (s : State) :
    initEntries i es s
      = { s with csm := s.csm && es.isEmpty, css := s.css && es.isEmpty, dc := dcAfterTable s.cfg s.dc es
                 trace := s.trace ++ tableEvents s.cfg s.csm s.css es
                 work := { s.work with initIdx := idxAfterTable s.work.initIdx i es } } := by
  induction es generalizing i s with
  | nil => simp [initEntries, dcAfterTable, tableEvents, idxAfterTable]
  | cons e es ih =>
    rw [initEntries, ih, xfer_eq]
    simp [dcAfterTable, tableEvents, idxAfterTable]

end Sys2Proof.Machine
end

