-- ==== Sys2Proof/Laws/Busy.lean ====
section
/-! SUPPORT. What a busy-wait and a power cycle do (spec/41_initializer.md R132, R133, R139), for every answer of the
panel and for the pending answers. -/

namespace Sys2Proof.Machine

/-- One sample, whatever the panel answers (R132). -/
theorem sampleBusy_eq (s : State) :
    ∃ v env', sampleBusy s
      = { s with busyLast := v, busyValid := true, env := env', trace := s.trace ++ [.sample v] } := by
  unfold sampleBusy drawBusy
  split <;> exact ⟨_, _, rfl⟩

/-- One sample of a pending level (R132). -/
theorem sampleBusy_pending (s : State) (v : Level) (rest : List Level) (h : s.env.busyIn = v :: rest) :
    sampleBusy s
      = { s with busyLast := v, busyValid := true, env := { s.env with busyIn := rest }
                 trace := s.trace ++ [.sample v] } := by
  simp [sampleBusy, drawBusy, h, emit]

/-- The levels that `n` polls may sample, and the outcome (R133). -/
def PollScript (c : Config) (n : Nat) (levels : List Level) : Wait → Prop
  | .released => ∃ k v, k < n ∧ v ≠ c.busyActive ∧ levels = List.replicate k c.busyActive ++ [v]
  | .timedOut => levels = List.replicate n c.busyActive

theorem pollScript_nPolls (c : Config) (levels : List Level) (o : Wait) :
    PollScript c c.nPolls levels o ↔ WaitScript c levels o := by
  cases o <;> rfl

/-- The state in which polls that sample `levels` and end in `o` leave the block, but for the panel's answers. -/
def afterPolls (levels : List Level) (o : Wait) (env' : Env) (s : State) : State :=
  { s with
    env := env'
    busyLast := levels.getLast?.getD s.busyLast
    busyValid := s.busyValid || !levels.isEmpty
    tout := decide (o = .timedOut)
    tocnt := if o = .timedOut then saturatingSucc s.tocnt else s.tocnt
    trace := s.trace ++ pollEvents s.cfg levels }

/-- Every run of the polls samples some script and ends as it says (R133). -/
theorem pollBusy_spec (n : Nat) (s : State) :
    ∃ levels o env', PollScript s.cfg n levels o ∧ pollBusy n s = (o, afterPolls levels o env' s) := by
  induction n generalizing s with
  | zero => exact ⟨[], .timedOut, s.env, rfl, by simp [pollBusy, afterPolls, pollEvents]⟩
  | succ n ih =>
    obtain ⟨v, env', hv⟩ := sampleBusy_eq s
    rw [pollBusy, hv]
    by_cases hb : v = s.cfg.busyActive
    · subst hb
      obtain ⟨levels, o, env'', hs, he⟩ := ih (delay .poll (emit .keepalive
        { s with busyLast := s.cfg.busyActive, busyValid := true, env := env'
                 trace := s.trace ++ [.sample s.cfg.busyActive] }))
      refine ⟨s.cfg.busyActive :: levels, o, env'', ?_, ?_⟩
      · cases o with
        | released =>
          obtain ⟨k, w, hk, hw, rfl⟩ := hs
          exact ⟨k + 1, w, by omega, hw, by simp [List.replicate_succ]⟩
        | timedOut =>
          have hs : levels = List.replicate n s.cfg.busyActive := hs
          simp [PollScript, hs, List.replicate_succ]
      · simp only [emit_busyLast, emit_cfg, ne_eq, not_true_eq_false, if_false]
        rw [he]
        cases levels <;> simp [afterPolls, pollEvents, delay, emit, List.getLast?_cons]
    · refine ⟨[v], .released, env', ⟨0, v, by omega, hb, by simp⟩, ?_⟩
      simp [hb, afterPolls, pollEvents, delay, emit]

/-- Polls with pending levels sample exactly those (R133). -/
theorem pollBusy_pending (n : Nat) (levels rest : List Level) (o : Wait) (s : State)
    (hs : PollScript s.cfg n levels o) (hb : s.env.busyIn = levels ++ rest) :
    pollBusy n s = (o, afterPolls levels o { s.env with busyIn := rest } s) := by
  induction n generalizing s levels with
  | zero =>
    cases o with
    | released => obtain ⟨k, v, hk, -⟩ := hs; omega
    | timedOut =>
      obtain rfl : levels = [] := hs
      have : s.env = { s.env with busyIn := rest } := by rw [← List.nil_append rest, ← hb]
      simp [pollBusy, afterPolls, pollEvents, ← this]
  | succ n ih =>
    have step : ∀ tail, levels = s.cfg.busyActive :: tail → PollScript s.cfg n tail o →
        pollBusy (n + 1) s = (o, afterPolls levels o { s.env with busyIn := rest } s) := by
      rintro tail rfl ht
      rw [pollBusy, sampleBusy_pending s s.cfg.busyActive (tail ++ rest) (by simpa using hb)]
      simp only [emit_busyLast, emit_cfg, ne_eq, not_true_eq_false, if_false]
      refine (ih tail _ ?_ rfl).trans ?_
      · exact ht
      cases tail <;> simp [afterPolls, pollEvents, delay, emit, List.getLast?_cons]
    cases o with
    | timedOut =>
      exact step (List.replicate n s.cfg.busyActive) (by rw [hs, List.replicate_succ]) rfl
    | released =>
      obtain ⟨k, v, hk, hv, rfl⟩ := hs
      cases k with
      | zero =>
        rw [pollBusy, sampleBusy_pending s v rest (by simpa using hb)]
        simp [hv, afterPolls, pollEvents, delay, emit]
      | succ k =>
        exact step (List.replicate k s.cfg.busyActive ++ [v]) (by simp [List.replicate_succ])
          ⟨k, v, by omega, hv, rfl⟩

/-- A busy-wait, whatever the panel answers (R133). -/
theorem busyWait_spec (s : State) :
    ∃ levels o env', WaitScript s.cfg levels o ∧ busyWait s = (o, afterPolls levels o env' s) := by
  obtain ⟨levels, o, env', hs, he⟩ := pollBusy_spec s.cfg.nPolls s
  exact ⟨levels, o, env', (pollScript_nPolls _ _ _).1 hs, he⟩

/-- A busy-wait with pending levels (R133). -/
theorem busyWait_pending (levels rest : List Level) (o : Wait) (s : State) (hs : WaitScript s.cfg levels o)
    (hb : s.env.busyIn = levels ++ rest) :
    busyWait s = (o, afterPolls levels o { s.env with busyIn := rest } s) :=
  pollBusy_pending _ _ _ _ _ ((pollScript_nPolls _ _ _).2 hs) hb

/-- A busy-wait samples at least once and at most N_POLLS times (R133). -/
theorem WaitScript.length_bounds {c : Config} {levels : List Level} {o : Wait} (h : WaitScript c levels o)
    (hn : 1 ≤ c.nPolls) : 1 ≤ levels.length ∧ levels.length ≤ c.nPolls := by
  cases o with
  | released =>
    obtain ⟨k, v, hk, -, rfl⟩ := h
    simp; omega
  | timedOut =>
    have h : levels = _ := h
    simp [h, hn]

theorem Config.one_le_nPolls {c : Config} (h : c.valid = true) : 1 ≤ c.nPolls := by
  simp only [Config.valid, Bool.and_eq_true] at h
  cases hn : c.nPolls with
  | zero => rw [hn] at h; simp [atLeastOne] at h
  | succ n => omega

/-- The discriminator level an init table leaves, by its last entry (R108). -/
theorem dcAfterTable_eq (c : Config) (dc : Level) (es : List InitEntry) :
    dcAfterTable c dc es = ((es.getLast?).map fun e => dcAfter c e.params).getD dc := by
  induction es generalizing dc with
  | nil => rfl
  | cons e es ih => rw [dcAfterTable, ih]; cases es <;> simp [List.getLast?_cons]

/-- `init_body()` in full (R136). -/
theorem initBody_eq (s : State) :
    initBody s
      = { s with rst := ((s.cfg.resetSeq.getLast?).map ResetStep.level).getD s.rst
                 csm := s.csm && s.cfg.initTable.isEmpty, css := s.css && s.cfg.initTable.isEmpty
                 dc := ((s.cfg.initTable.getLast?).map fun e => dcAfter s.cfg e.params).getD s.dc
                 initialized := true, renderOk := false, power := .off
                 trace := s.trace ++ initEvents s.cfg s.csm s.css
                 work := { s.work with initIdx := idxAfterTable s.work.initIdx 0 s.cfg.initTable } } := by
  simp [initBody, resetSequence_eq, initEntries_eq, clearPanelState, dcAfterTable_eq, initEvents]

/-- One command of a power cycle in full (R140). -/
theorem powerCommand_eq (ph : CyclePhase) (s : State) :
    powerCommand ph s
      = { s with csm := false, css := false, dc := dcAfter s.cfg (cycleCommand s.cfg ph).2.1
                 power := (cycleCommand s.cfg ph).2.2
                 work := { s.work with cyclePhase := ph }
                 trace := s.trace ++ xferEvents s.cfg s.csm s.css s.cfg.cycleTarget (cycleCommand s.cfg ph).1
                   (cycleCommand s.cfg ph).2.1 } := by
  simp [powerCommand, xfer_eq]

/-- One step of a power cycle, whatever the panel answers (R140). -/
theorem powerStep_spec (ph : CyclePhase) (s : State) :
    ∃ levels o env', WaitScript s.cfg levels o ∧ powerStep ph s = (o, afterPolls levels o env' (powerCommand ph s)) := by
  obtain ⟨levels, o, env', h, r⟩ := busyWait_spec (powerCommand ph s)
  exact ⟨levels, o, env', by simpa [powerCommand_eq] using h, r⟩

/-- One step of a power cycle with pending levels (R140). -/
theorem powerStep_pending (ph : CyclePhase) (levels rest : List Level) (o : Wait) (s : State)
    (hs : WaitScript s.cfg levels o) (hb : s.env.busyIn = levels ++ rest) :
    powerStep ph s = (o, afterPolls levels o { s.env with busyIn := rest } (powerCommand ph s)) := by
  rw [powerStep, busyWait_pending levels rest o (powerCommand ph s)] <;> simp [powerCommand_eq, *]

/-- The number of timed-out waits recorded by a power cycle (R38). -/
def countTimeouts (n : BitVec 16) : List Wait → BitVec 16
  | [] => n
  | o :: os => countTimeouts (if o = .timedOut then saturatingSucc n else n) os

/-- The state in which a power cycle leaves the block, with the levels and outcomes of its three waits (R139). -/
def afterCycle (w1 w2 w3 : List Level) (o1 o2 o3 : Wait) (env' : Env) (s : State) : State :=
  { s with
    env := env'
    csm := false
    css := false
    dc := s.cfg.dcData
    power := .off
    busyLast := w3.getLast?.getD (w2.getLast?.getD (w1.getLast?.getD s.busyLast))
    busyValid := s.busyValid || !w1.isEmpty || !w2.isEmpty || !w3.isEmpty
    tout := decide (o3 = .timedOut)
    tocnt := countTimeouts s.tocnt [o1, o2, o3]
    trace := s.trace ++ cycleEvents s.cfg s.csm s.css w1 w2 w3
    result := (waitResult (o1 = .timedOut || o2 = .timedOut || o3 = .timedOut)).code
    work := { s.work with cyclePhase := .powerOff } }

/-- `cycle_body()`, whatever the panel answers (R139, R141). -/
theorem cycleBody_spec (s : State) :
    ∃ w1 w2 w3 o1 o2 o3 env', WaitScript s.cfg w1 o1 ∧ WaitScript s.cfg w2 o2 ∧ WaitScript s.cfg w3 o3
      ∧ cycleBody s = afterCycle w1 w2 w3 o1 o2 o3 env' s := by
  obtain ⟨w1, o1, e1, h1, r1⟩ := powerStep_spec .powerOn s
  obtain ⟨w2, o2, e2, h2, r2⟩ := powerStep_spec .refresh (delay .ponSettle (afterPolls w1 o1 e1 (powerCommand .powerOn s)))
  obtain ⟨w3, o3, e3, h3, r3⟩ := powerStep_spec .powerOff
    (afterPolls w2 o2 e2 (powerCommand .refresh (delay .ponSettle (afterPolls w1 o1 e1 (powerCommand .powerOn s)))))
  refine ⟨w1, w2, w3, o1, o2, o3, e3, h1, ?_, ?_, ?_⟩
  · simpa [powerCommand_eq, afterPolls, delay, emit] using h2
  · simpa [powerCommand_eq, afterPolls, delay, emit] using h3
  · simp only [cycleBody, r1, r2, r3]
    simp [powerCommand_eq, afterPolls, delay, emit, afterCycle, setResult, cycleEvents, cycleCommand, countTimeouts,
      dcAfter, Bool.or_assoc]

/-- `cycle_body()` with pending levels for its three waits (R139). -/
theorem cycleBody_pending (w1 w2 w3 rest : List Level) (o1 o2 o3 : Wait) (s : State) (h1 : WaitScript s.cfg w1 o1)
    (h2 : WaitScript s.cfg w2 o2) (h3 : WaitScript s.cfg w3 o3) (hb : s.env.busyIn = w1 ++ (w2 ++ (w3 ++ rest))) :
    cycleBody s = afterCycle w1 w2 w3 o1 o2 o3 { s.env with busyIn := rest } s := by
  have r1 := powerStep_pending .powerOn w1 _ o1 s h1 hb
  have r2 := powerStep_pending .refresh w2 (w3 ++ rest) o2 (delay .ponSettle
    (afterPolls w1 o1 { s.env with busyIn := w2 ++ (w3 ++ rest) } (powerCommand .powerOn s)))
    (by simpa [powerCommand_eq, afterPolls, delay, emit] using h2) (by simp [delay, emit, afterPolls])
  have r3 := powerStep_pending .powerOff w3 rest o3 (afterPolls w2 o2 { s.env with busyIn := w3 ++ rest }
    (powerCommand .refresh (delay .ponSettle
      (afterPolls w1 o1 { s.env with busyIn := w2 ++ (w3 ++ rest) } (powerCommand .powerOn s)))))
    (by simpa [powerCommand_eq, afterPolls, delay, emit] using h3) (by simp [delay, emit, afterPolls])
  simp only [cycleBody, r1, r2]
  refine Eq.trans (congrArg (fun p : Wait × State => setResult (waitResult
    (decide (o1 = .timedOut) || decide (o2 = .timedOut) || decide (p.1 = .timedOut))) p.2) r3) ?_
  simp [powerCommand_eq, afterPolls, delay, emit, afterCycle, setResult, cycleEvents, cycleCommand, countTimeouts,
    dcAfter, Bool.or_assoc]

end Sys2Proof.Machine
end

