-- ==== Sys2Proof/Laws/Decode.lean ====
section
/-! SUPPORT. The encoding's small lemmas: payload packing, what the decoder takes from the words, and program
well-formedness of the words left (spec/30_encoding.md R84 to R87). -/

namespace Sys2Proof

/-- Packing makes `ceil(L/2)` words (R84). -/
@[simp] theorem length_pack (bs : List Byte) : (pack bs).length = (bs.length + 1) / 2 := by
  induction bs using pack.induct with
  | case1 => rfl
  | case2 b => simp [pack]
  | case3 b c bs ih => simp only [pack, List.length_cons, ih]; omega

/-- What a successful unpacking takes from the words (R85). -/
theorem unpack_some (ws : List Word) (n : Nat) (bs : List Byte) (rest : List Word) (h : unpack ws n = some (bs, rest)) :
    bs.length = n ∧ rest = ws.drop ((n + 1) / 2) ∧ (n + 1) / 2 ≤ ws.length := by
  induction ws, n using unpack.induct generalizing bs rest with
  | case1 ws =>
    simp only [unpack, Option.some.injEq, Prod.mk.injEq] at h
    simp [← h.1, ← h.2]
  | case2 n => simp [unpack] at h
  | case3 w ws =>
    simp only [unpack, Option.some.injEq, Prod.mk.injEq] at h
    simp [← h.1, ← h.2]
  | case4 w ws n bs' rest' h' ih =>
    simp only [unpack, h', Option.some.injEq, Prod.mk.injEq] at h
    obtain ⟨h1, h2, h3⟩ := ih _ _ h'
    rw [show (n + 2 + 1) / 2 = (n + 1) / 2 + 1 by omega, ← h.1, ← h.2]
    exact ⟨by simp [h1], by simpa using h2, by simpa using h3⟩
  | case5 w ws n h' ih => simp [unpack, h'] at h

/-- Unpacking fails only where the words run out (R84). -/
theorem unpack_none (ws : List Word) (n : Nat) (h : unpack ws n = none) : ws.length < (n + 1) / 2 := by
  induction ws, n using unpack.induct with
  | case1 ws => simp [unpack] at h
  | case2 n => simp
  | case3 w ws => simp [unpack] at h
  | case4 w ws n bs' rest' h' ih => simp [unpack, h'] at h
  | case5 w ws n h' ih => have := ih h'; simp; omega

/-- An operation word that is a whole operation is one word long (R82). -/
theorem words_of_decodeHead (w : Word) (i : Instr) (h : decodeHead w = .one i) : i.words = 1 := by
  have target : ∀ f : Target → Instr, (∀ t, (f t).words = 1) → needTarget w f = .one i → i.words = 1 := by
    intro f hf h
    unfold needTarget at h
    split at h
    · split at h
      · obtain rfl := Head.one.inj h
        exact hf _
      · exact Head.noConfusion h
    · exact Head.noConfusion h
  have plain : ∀ j : Instr, j.words = 1 → needNoTarget w (.one j) = .one i → i.words = 1 := by
    intro j hj h
    unfold needNoTarget at h
    split at h
    · exact Head.one.inj h ▸ hj
    · exact Head.noConfusion h
  have bare : ∀ j : Instr, j.words = 1 → needBare w (.one j) = .one i → i.words = 1 := by
    intro j hj h
    unfold needBare at h
    split at h
    · exact Head.one.inj h ▸ hj
    · exact Head.noConfusion h
  have next : ∀ (c : Prop) [Decidable c] (x y : Head), (x = .one i → i.words = 1) → (y = .one i → i.words = 1) →
      (if c then x else y) = .one i → i.words = 1 := by
    intro c _ x y hx hy h
    by_cases hc : c
    · rw [if_pos hc] at h; exact hx h
    · rw [if_neg hc] at h; exact hy h
  have block : needBare w .blockHead = .one i → i.words = 1 := by
    intro h
    unfold needBare at h
    split at h <;> exact Head.noConfusion h
  refine next _ _ _ (fun h => Head.noConfusion h) (next _ _ _ (plain _ rfl) (next _ _ _ (target _ ?_)
    (next _ _ _ (target _ ?_) (next _ _ _ (plain _ rfl) (next _ _ _ (plain _ rfl) (next _ _ _ block
    (next _ _ _ (bare _ rfl) (next _ _ _ (bare _ rfl) (next _ _ _ (bare _ rfl) (next _ _ _ (bare _ rfl)
    (next _ _ _ (bare _ rfl) (next _ _ _ (bare _ rfl) (next _ _ _ (plain _ rfl) fun h => Head.noConfusion h)))))))))))))
    h <;> (intro t; cases t <;> rfl)

/-- What decoding takes: an operation's own words, all of them there, and at least one. -/
theorem decode_op (ws : List Word) (i : Instr) (rest : List Word) (h : decode ws = .op i rest) :
    rest = ws.drop i.words ∧ i.words ≤ ws.length ∧ 1 ≤ i.words := by
  cases ws with
  | nil => exact Decoded.noConfusion h
  | cons w ws =>
    simp only [decode] at h
    split at h
    · next j hj =>
      obtain ⟨rfl, rfl⟩ := Decoded.op.inj h
      simp [words_of_decodeHead w _ hj]
    · exact Decoded.noConfusion h
    · cases ws with
      | nil => exact Decoded.noConfusion h
      | cons len ws =>
        simp only at h
        split at h
        · next bs rest' hu =>
          obtain ⟨rfl, rfl⟩ := Decoded.op.inj h
          obtain ⟨h1, h2, h3⟩ := unpack_some _ _ _ _ hu
          rw [Instr.words, h1, show 2 + (len.toNat + 1) / 2 = (len.toNat + 1) / 2 + 1 + 1 by omega]
          exact ⟨by simpa using h2, by simpa using h3, by omega⟩
        · exact Decoded.noConfusion h

/-- An illegal word is taken as one word (R87). -/
theorem decode_illegal (ws : List Word) (w : Word) (rest : List Word) (h : decode ws = .illegal w rest) :
    ws = w :: rest := by
  cases ws with
  | nil => exact Decoded.noConfusion h
  | cons w' ws =>
    simp only [decode] at h
    split at h
    · exact Decoded.noConfusion h
    · obtain ⟨rfl, rfl⟩ := Decoded.illegal.inj h
      rfl
    · cases ws with
      | nil => exact Decoded.noConfusion h
      | cons len ws => simp only at h; split at h <;> exact Decoded.noConfusion h

/-- Only the end of the program decodes to no operation. -/
theorem decode_empty (ws : List Word) : decode ws = .empty ↔ ws = [] := by
  refine ⟨fun h => ?_, fun h => h ▸ rfl⟩
  cases ws with
  | nil => rfl
  | cons w ws =>
    simp only [decode] at h
    split at h
    · exact Decoded.noConfusion h
    · exact Decoded.noConfusion h
    · cases ws with
      | nil => exact Decoded.noConfusion h
      | cons len ws => simp only at h; split at h <;> exact Decoded.noConfusion h

/-- Any number of operations from the words' length on is enough to check them all. -/
theorem programOkFor_enough (n m : Nat) (ws : List Word) (hn : ws.length ≤ n) (hm : ws.length ≤ m) :
    programOkFor n ws = programOkFor m ws := by
  have none_left : ∀ k, programOkFor k [] = true := by intro k; cases k <;> rfl
  induction n generalizing m ws with
  | zero =>
    obtain rfl := List.eq_nil_of_length_eq_zero (Nat.le_zero.1 hn)
    rw [none_left, none_left]
  | succ n ih =>
    cases m with
    | zero =>
      obtain rfl := List.eq_nil_of_length_eq_zero (Nat.le_zero.1 hm)
      rw [none_left, none_left]
    | succ m =>
      rw [programOkFor, programOkFor]
      cases h : decode ws with
      | empty => rfl
      | truncated => rfl
      | op i rest =>
        obtain ⟨rfl, hl, h1⟩ := decode_op ws i rest h
        exact ih m _ (by simp; omega) (by simp; omega)
      | illegal w rest =>
        obtain rfl := decode_illegal ws w rest h
        simp only [List.length_cons] at hn hm
        exact ih m rest (by omega) (by omega)

/-- After an operation the words left are a well-formed program again. -/
theorem programOk_op (ws : List Word) (i : Instr) (rest : List Word) (h : decode ws = .op i rest) :
    programOk ws = programOk rest := by
  obtain ⟨rfl, hl, h1⟩ := decode_op ws i rest h
  rw [programOk, programOkFor_enough ws.length (ws.length + 1) ws (Nat.le_refl _) (by omega), programOkFor, h]
  exact programOkFor_enough _ _ _ (by simp) (Nat.le_refl _)

/-- After an illegal word the words left are a well-formed program again. -/
theorem programOk_illegal (ws : List Word) (w : Word) (rest : List Word) (h : decode ws = .illegal w rest) :
    programOk ws = programOk rest := by
  obtain rfl := decode_illegal ws w rest h
  rw [programOk, List.length_cons, programOkFor, h, programOk]

/-- A BLOCK cut off at the front makes the program ill-formed. -/
theorem programOk_truncated (ws : List Word) (h : decode ws = .truncated) : programOk ws = false := by
  cases ws with
  | nil => exact Decoded.noConfusion h
  | cons w ws => rw [programOk, List.length_cons, programOkFor, h]

end Sys2Proof
end

