-- ==== Sys2Proof/Laws/Memory.lean ====
section
/-! SUPPORT. The opened file as memory: opening makes the canonical form, and reading meets the file's bytes
(spec/20_memory.md R61, R64). The block writes no storage, so these are all its memory operations. -/

namespace Sys2Proof.Machine

theorem Memory.wfFrom_mono {lo lo' : Nat} (h : lo ≤ lo') (m : Memory) (hm : Memory.wfFrom lo' m = true) :
    Memory.wfFrom lo m = true := by
  cases m with
  | nil => rfl
  | cons c m =>
    simp only [Memory.wfFrom, Bool.and_eq_true, decide_eq_true_eq] at hm ⊢
    exact ⟨⟨by omega, hm.1.2⟩, hm.2⟩

theorem Memory.wfFrom_ofBytesAt (o : Nat) (bs : List Byte) : Memory.wfFrom o (Memory.ofBytesAt o bs) = true := by
  induction bs generalizing o with
  | nil => rfl
  | cons b bs ih =>
    by_cases hb : b = 0x00#8
    · simpa [Memory.ofBytesAt, hb] using Memory.wfFrom_mono (Nat.le_succ o) _ (ih (o + 1))
    · simp [Memory.ofBytesAt, hb, Memory.wfFrom, ih (o + 1)]

/-- Opening a file makes the canonical form. -/
theorem StoredFile.ofBytes_wf (F : List Byte) : Memory.wf (StoredFile.ofBytes F).cells = true :=
  Memory.wfFrom_ofBytesAt 0 F

theorem Memory.read_below (o a : Nat) (bs : List Byte) (h : a < o) : Memory.read (Memory.ofBytesAt o bs) a = 0x00#8 := by
  induction bs generalizing o with
  | nil => rfl
  | cons b bs ih =>
    by_cases hb : b = 0x00#8
    · simpa [Memory.ofBytesAt, hb] using ih (o + 1) (by omega)
    · simpa [Memory.ofBytesAt, hb, Memory.read, show o ≠ a by omega] using ih (o + 1) (by omega)

/-- A read of an opened file's offset gives the byte the file has there. -/
theorem Memory.read_ofBytesAt (o i : Nat) (bs : List Byte) :
    Memory.read (Memory.ofBytesAt o bs) (o + i) = bs.getD i 0x00#8 := by
  induction bs generalizing o i with
  | nil => rfl
  | cons b bs ih =>
    cases i with
    | zero =>
      by_cases hb : b = 0x00#8
      · simpa [Memory.ofBytesAt, hb] using Memory.read_below (o + 1) o bs (by omega)
      · simp [Memory.ofBytesAt, hb, Memory.read]
    | succ i =>
      have := ih (o + 1) i
      rw [show o + (i + 1) = o + 1 + i by omega]
      by_cases hb : b = 0x00#8
      · simpa [Memory.ofBytesAt, hb] using this
      · simpa [Memory.ofBytesAt, hb, Memory.read, show o ≠ o + 1 + i by omega] using this

/-- The slice a read meets is the file's bytes from the offset on (R64). -/
theorem StoredFile.slice_ofBytes (F : List Byte) (off n : Nat) :
    (StoredFile.ofBytes F).slice off n = fileBytes F off n := by
  apply List.ext_getElem
  · simp [StoredFile.slice, StoredFile.ofBytes, fileBytes]
  · intro i h1 h2
    have hi : off + i < F.length := by simp [StoredFile.slice, StoredFile.ofBytes] at h1; omega
    have := Memory.read_ofBytesAt 0 (off + i) F
    simp only [Nat.zero_add, List.getD_eq_getElem?_getD, List.getElem?_eq_getElem hi, Option.getD_some] at this
    simp [StoredFile.slice, StoredFile.ofBytes, fileBytes, this]

theorem length_fileBytes (F : List Byte) (off n : Nat) : (fileBytes F off n).length = min n (F.length - off) := by
  simp [fileBytes]

end Sys2Proof.Machine
end

