-- ==== Sys2Proof/Laws/PerInstr.lean ====
section
/-! SUPPORT. A statement about every instruction as syntax, one lemma per constructor: an instruction's words are as many as
R82 and R84 say, and its first word alone says which operation it is. -/

namespace Sys2Proof.Laws.EncodeShape

/-- The encoding has `i.words` words, and its first word is legal by R86: an operation of one word, or BLOCK's word, whose
length and payload follow. -/
def Statement (i : Instr) : Prop :=
  (encode i).length = i.words
    ∧ ((encode i).head?).map decodeHead = some (if i.words = 1 then .one i else .blockHead)

theorem nop (imm : Byte) : Statement (.nop imm) := by
  refine ⟨rfl, ?_⟩
  show some (decodeHead _) = some _
  revert imm
  decide

theorem selM : Statement .selM := ⟨rfl, rfl⟩

theorem selS : Statement .selS := ⟨rfl, rfl⟩

theorem selBoth : Statement .selBoth := ⟨rfl, rfl⟩

theorem deselM : Statement .deselM := ⟨rfl, rfl⟩

theorem deselS : Statement .deselS := ⟨rfl, rfl⟩

theorem deselBoth : Statement .deselBoth := ⟨rfl, rfl⟩

theorem cmd (c : Byte) : Statement (.cmd c) := by
  refine ⟨rfl, ?_⟩
  show some (decodeHead _) = some _
  revert c
  decide

theorem data (d : Byte) : Statement (.data d) := by
  refine ⟨rfl, ?_⟩
  show some (decodeHead _) = some _
  revert d
  decide

theorem block (p : List Byte) : Statement (.block p) := by
  refine ⟨by simp [encode, Instr.words]; omega, ?_⟩
  rw [if_neg (by simp only [Instr.words]; omega)]
  rfl

theorem rstp : Statement .rstp := ⟨rfl, rfl⟩

theorem bwait : Statement .bwait := ⟨rfl, rfl⟩

theorem init : Statement .init := ⟨rfl, rfl⟩

theorem render : Statement .render := ⟨rfl, rfl⟩

theorem cycle : Statement .cycle := ⟨rfl, rfl⟩

theorem display : Statement .display := ⟨rfl, rfl⟩

theorem rdstat (k : Byte) : Statement (.rdstat k) := by
  refine ⟨rfl, ?_⟩
  show some (decodeHead _) = some _
  revert k
  decide

end Sys2Proof.Laws.EncodeShape
end

