-- ==== Sys2Proof/Laws/Wire.lean ====
section
/-! SUPPORT. What the controllers receive from each event sequence of the rules, and how many transfers, keep-alives and
samples it holds (spec/40_panelbus.md R117, spec/42_renderer.md R169). -/

namespace Sys2Proof.Machine

/-! Received bytes. -/

@[simp] theorem receivedBy_nil (h : Half) : receivedBy h [] = [] := rfl

@[simp] theorem receivedBy_append (h : Half) (a b : List Event) :
    receivedBy h (a ++ b) = receivedBy h a ++ receivedBy h b := by simp [receivedBy]

/-- An event that transfers nothing is not received. -/
theorem receivedBy_cons_none (h : Half) (e : Event) (es : List Event) (he : e.isXfer = false) :
    receivedBy h (e :: es) = receivedBy h es := by
  cases e <;> first | rfl | exact Bool.noConfusion he

/-- The bytes sent to one select set arrive where its select is asserted. -/
theorem receivedBy_xfers (h : Half) (dc : Level) (sel : Sel) (bs : List Byte) :
    receivedBy h (bs.map fun b => .xfer dc sel b) = if sel.has h then bs else [] := by
  induction bs with
  | nil => simp
  | cons b bs ih =>
    simp only [receivedBy, List.map_cons, List.filterMap_cons, receives] at ih ⊢
    rw [ih]
    cases sel.has h <;> rfl

theorem receivedBy_sel (h : Half) (c : Config) (csm css : Bool) (t : Target) :
    receivedBy h (selEvents c csm css t) = [] := by
  cases csm <;> cases css <;> cases t <;> rfl

theorem receivedBy_desel (h : Half) (c : Config) (csm css : Bool) (t : Target) :
    receivedBy h (deselEvents c csm css t) = [] := by
  cases csm <;> cases css <;> cases t <;> rfl

/-- A transaction's bytes reach the controllers in its target, and no other (R117, R118). -/
theorem receivedBy_xferEvents (h : Half) (c : Config) (csm css : Bool) (t : Target) (cmd : Byte) (ps : List Byte) :
    receivedBy h (xferEvents c csm css t cmd ps) = if t.sel.has h then cmd :: ps else [] := by
  have one := receivedBy_xfers h c.dcCmd t.sel [cmd]
  simp only [List.map_cons, List.map_nil] at one
  simp only [xferEvents, receivedBy_append, receivedBy_sel, receivedBy_desel, one, receivedBy_xfers]
  cases t.sel.has h <;> simp

/-- A busy-wait transfers nothing (R132, R133). -/
theorem receivedBy_pollEvents (h : Half) (c : Config) (levels : List Level) : receivedBy h (pollEvents c levels) = [] := by
  induction levels with
  | nil => rfl
  | cons v vs ih => exact ih

/-! Where there are no samples. -/

theorem selEvents_no_sample (c : Config) (a b : Bool) (t : Target) : ∀ e ∈ selEvents c a b t, e.isSample = false := by
  cases a <;> cases b <;> cases t <;> simp [selEvents, Target.hasM, Target.hasS, Event.isSample]

theorem deselEvents_no_sample (c : Config) (a b : Bool) (t : Target) :
    ∀ e ∈ deselEvents c a b t, e.isSample = false := by
  cases a <;> cases b <;> cases t <;> simp [deselEvents, Target.hasM, Target.hasS, Event.isSample]

theorem xferEvents_no_sample (c : Config) (a b : Bool) (t : Target) (cmd : Byte) (ps : List Byte) :
    ∀ e ∈ xferEvents c a b t cmd ps, e.isSample = false := by
  intro e he
  simp only [xferEvents, List.mem_append, List.mem_singleton, List.mem_map] at he
  rcases he with ((he | rfl) | ⟨_, -, rfl⟩) | he
  · exact selEvents_no_sample _ _ _ _ e he
  · rfl
  · rfl
  · exact deselEvents_no_sample _ _ _ _ e he

theorem resetEventsFrom_no_sample (i : Nat) (seq : List ResetStep) :
    ∀ e ∈ resetEventsFrom i seq, e.isSample = false := by
  induction seq generalizing i with
  | nil => simp [resetEventsFrom]
  | cons st rest ih =>
    intro e he
    simp only [resetEventsFrom, List.mem_cons] at he
    rcases he with rfl | rfl | he
    · rfl
    · rfl
    · exact ih _ e he

theorem tableEvents_no_sample (c : Config) (a b : Bool) (es : List InitEntry) :
    ∀ e ∈ tableEvents c a b es, e.isSample = false := by
  induction es generalizing a b with
  | nil => simp [tableEvents]
  | cons x xs ih =>
    intro e he
    rcases List.mem_append.1 he with he | he
    · exact xferEvents_no_sample _ _ _ _ _ _ e he
    · exact ih _ _ e he

/-- INIT takes no BUSY sample (R137). -/
theorem initEvents_no_sample (c : Config) (a b : Bool) : ∀ e ∈ initEvents c a b, e.isSample = false := by
  intro e he
  rcases List.mem_append.1 he with he | he
  · exact resetEventsFrom_no_sample _ _ e he
  · exact tableEvents_no_sample _ _ _ _ e he

end Sys2Proof.Machine
end

