-- ==== Sys2Proof/Laws/Render.lean ====
section
/-! SUPPORT. What the storage port and a render do (spec/20_memory.md R61 to R64, spec/42_renderer.md), for every answer of
the storage and for pending whole reads. -/

namespace Sys2Proof.Machine

/-! Any answers: what a render leaves alone, and how it can end. -/

/-- `s` to `t` is work of a render: the fields no render writes are kept, the trace grows by events that are no BUSY
samples, and the row count stays in the panel. -/
structure RenderKeeps (s t : State) : Prop where
  cfg : t.cfg = s.cfg
  prog : t.prog = s.prog
  pc : t.pc = s.pc
  rst : t.rst = s.rst
  busyLast : t.busyLast = s.busyLast
  busyValid : t.busyValid = s.busyValid
  initialized : t.initialized = s.initialized
  power : t.power = s.power
  tout : t.tout = s.tout
  tocnt : t.tocnt = s.tocnt
  rdata : t.rdata = s.rdata
  phase : t.phase = s.phase
  grows : ∃ evs, t.trace = s.trace ++ evs ∧ ∀ e ∈ evs, e.isSample = false
  rows : s.rprog.rows.toNat ≤ s.cfg.h → t.rprog.rows.toNat ≤ t.cfg.h

theorem RenderKeeps.refl (s : State) : RenderKeeps s s :=
  ⟨rfl, rfl, rfl, rfl, rfl, rfl, rfl, rfl, rfl, rfl, rfl, rfl, ⟨[], by simp, by simp⟩, id⟩

theorem RenderKeeps.trans {s t u : State} (h : RenderKeeps s t) (k : RenderKeeps t u) : RenderKeeps s u := by
  obtain ⟨e1, h1, n1⟩ := h.grows
  obtain ⟨e2, h2, n2⟩ := k.grows
  refine ⟨k.cfg.trans h.cfg, k.prog.trans h.prog, k.pc.trans h.pc, k.rst.trans h.rst, k.busyLast.trans h.busyLast,
    k.busyValid.trans h.busyValid, k.initialized.trans h.initialized, k.power.trans h.power, k.tout.trans h.tout,
    k.tocnt.trans h.tocnt, k.rdata.trans h.rdata, k.phase.trans h.phase,
    ⟨e1 ++ e2, by rw [h2, h1, List.append_assoc], ?_⟩, fun hr => k.rows (h.rows hr)⟩
  intro e he
  rcases List.mem_append.1 he with he | he
  · exact n1 e he
  · exact n2 e he

/-- A change of the lines, the files' and the working state, with events that are no samples, is work of a render. -/
theorem RenderKeeps.of_update (s : State) (csm css : Bool) (dc : Level) (ok : Bool) (res : Byte) (w : Work) (env : Env)
    (f : Option StoredFile) (evs : List Event) (h : ∀ e ∈ evs, e.isSample = false) :
    RenderKeeps s { s with csm := csm, css := css, dc := dc, renderOk := ok, result := res, work := w, env := env
                           openFile := f, trace := s.trace ++ evs } :=
  ⟨rfl, rfl, rfl, rfl, rfl, rfl, rfl, rfl, rfl, rfl, rfl, rfl, ⟨evs, rfl, h⟩, id⟩

theorem keeps_busSel (t : Target) (s : State) : RenderKeeps s (busSel t s) := by
  rw [busSel_eq]
  exact .of_update s _ _ _ _ _ _ _ _ _ (selEvents_no_sample _ _ _ _)

theorem keeps_busDesel (t : Target) (s : State) : RenderKeeps s (busDesel t s) := by
  rw [busDesel_eq]
  exact .of_update s _ _ _ _ _ _ _ _ _ (deselEvents_no_sample _ _ _ _)

theorem keeps_busCmd (b : Byte) (s : State) : RenderKeeps s (busCmd b s) :=
  .of_update s _ _ _ _ _ _ _ _ _ (by simp [Event.isSample])

theorem keeps_busBlock (bs : List Byte) (s : State) : RenderKeeps s (busBlock bs s) := by
  rw [busBlock_eq]
  exact .of_update s _ _ _ _ _ _ _ _ _ (by simp [Event.isSample])

theorem keeps_delay (d : Delay) (s : State) : RenderKeeps s (delay d s) :=
  .of_update s _ _ _ _ _ _ _ _ _ (by simp [Event.isSample])

theorem keeps_work (s : State) (w : Work) : RenderKeeps s { s with work := w } := by
  simpa using RenderKeeps.of_update s s.csm s.css s.dc s.renderOk s.result w s.env s.openFile [] (by simp)

theorem keeps_setResult (r : ResultCode) (s : State) : RenderKeeps s (setResult r s) := by
  simpa [setResult] using
    RenderKeeps.of_update s s.csm s.css s.dc s.renderOk r.code s.work s.env s.openFile [] (by simp)

theorem keeps_renderOk (b : Bool) (s : State) : RenderKeeps s { s with renderOk := b } := by
  simpa using RenderKeeps.of_update s s.csm s.css s.dc b s.result s.work s.env s.openFile [] (by simp)

theorem keeps_closeFile (s : State) : RenderKeeps s (closeFile s) :=
  .of_update s _ _ _ _ _ _ _ _ _ (by simp [Event.isSample])

theorem keeps_seekStart (s : State) : RenderKeeps s (seekStart s) :=
  .of_update s _ _ _ _ _ _ _ _ _ (by simp [Event.isSample])

theorem keeps_setProgress (p : Pass) (n : Nat) (s : State) (h : n ≤ s.cfg.h) : RenderKeeps s (setProgress p n s) :=
  ⟨rfl, rfl, rfl, rfl, rfl, rfl, rfl, rfl, rfl, rfl, rfl, rfl, ⟨[], by simp, by simp⟩,
    fun _ => le_trans (by simpa using Nat.mod_le _ _) h⟩

theorem keeps_keepalivePoint (r : Nat) (s : State) : RenderKeeps s (keepalivePoint r s) := by
  unfold keepalivePoint
  split
  · exact .of_update s _ _ _ _ _ _ _ _ _ (by simp [Event.isSample])
  · exact .refl s

/-- `SizeQuery()`, whatever the storage answers (R61). -/
theorem sizeQuery_eq (s : State) :
    ∃ (r : Option (List Byte)) (env' : Env), sizeQuery s
      = { s with env := env', openFile := r.map StoredFile.ofBytes, trace := s.trace ++ [.sopen (r.map List.length)] } := by
  unfold sizeQuery drawOpen
  split
  · exact ⟨_, _, rfl⟩
  · exact ⟨_, _, rfl⟩

/-- `SizeQuery()` with a pending answer (R61). -/
theorem sizeQuery_pending (s : State) (r : Option (List Byte)) (rest : List (Option (List Byte)))
    (h : s.env.openIn = r :: rest) :
    sizeQuery s
      = { s with env := { s.env with openIn := rest }, openFile := r.map StoredFile.ofBytes
                 trace := s.trace ++ [.sopen (r.map List.length)] } := by
  simp [sizeQuery, drawOpen, h, emit]

/-- `MemRead(off, n)`, whatever the storage answers (R62, R64). -/
theorem memRead_eq (off n : Nat) (s : State) :
    ∃ (d : List Byte) (env' : Env), d.length ≤ n ∧ memRead off n s
      = { s with env := env', work := { s.work with rowbuf := d }, trace := s.trace ++ [.sread off n d.length] } := by
  have hslice : (fileSlice s off n).length ≤ n := by
    unfold fileSlice
    split
    · simp [StoredFile.slice]
    · simp
  have hlen : ∀ r : ReadReply, (r.bytes n (fileSlice s off n)).length ≤ n := by
    intro r
    cases r <;> simp [ReadReply.bytes] <;> omega
  unfold memRead drawRead
  split <;> exact ⟨_, _, hlen _, rfl⟩

/-- `MemRead(off, n)` with a pending answer (R62, R64). -/
theorem memRead_pending (off n : Nat) (s : State) (r : ReadReply) (rest : List ReadReply) (h : s.env.readIn = r :: rest) :
    memRead off n s
      = { s with env := { s.env with readIn := rest }
                 work := { s.work with rowbuf := r.bytes n (fileSlice s off n) }
                 trace := s.trace ++ [.sread off n (r.bytes n (fileSlice s off n)).length] } := by
  simp [memRead, drawRead, h, emit]

/-- How part of a pass of a render can end: normally with the file still open, or by the short read `r` with the file
closed. Neither writes `render_ok`. -/
def PassEnds (r : ResultCode) (s : State) : Ran → Prop
  | .done t => RenderKeeps s t ∧ t.openFile = s.openFile ∧ t.result = s.result ∧ t.renderOk = s.renderOk
  | .raised t => RenderKeeps s t ∧ t.openFile = none ∧ t.result = r.code ∧ t.renderOk = s.renderOk

theorem PassEnds.andThen {r : ResultCode} {s : State} {x : Ran} {f : State → Ran} (hx : PassEnds r s x)
    (hf : ∀ t, t.cfg = s.cfg → PassEnds r t (f t)) : PassEnds r s (x.andThen f) := by
  cases x with
  | raised t => exact hx
  | done t =>
    obtain ⟨k, ho, hr, hk⟩ := hx
    have := hf t k.cfg
    show PassEnds r s (f t)
    cases hft : f t with
    | done u =>
      rw [hft] at this
      exact ⟨k.trans this.1, this.2.1.trans ho, this.2.2.1.trans hr, this.2.2.2.trans hk⟩
    | raised u =>
      rw [hft] at this
      exact ⟨k.trans this.1, this.2.1, this.2.2.1, this.2.2.2.trans hk⟩

/-- Work before a part of a pass belongs to it. -/
theorem PassEnds.after {r : ResultCode} {s s' : State} {x : Ran} (k : RenderKeeps s s') (ho : s'.openFile = s.openFile)
    (hr : s'.result = s.result) (hk : s'.renderOk = s.renderOk) (hx : PassEnds r s' x) : PassEnds r s x := by
  cases x with
  | done t => exact ⟨k.trans hx.1, hx.2.1.trans ho, hx.2.2.1.trans hr, hx.2.2.2.trans hk⟩
  | raised t => exact ⟨k.trans hx.1, hx.2.1, hx.2.2.1, hx.2.2.2.trans hk⟩

theorem readHalf_ends (t : Target) (r : ResultCode) (s : State) : PassEnds r s (readHalf t r s) := by
  obtain ⟨d, env', -, he⟩ := memRead_eq s.work.cur s.cfg.half s
  have k : RenderKeeps s (memRead s.work.cur s.cfg.half s) := by
    rw [he]
    exact .of_update s _ _ _ _ _ _ _ _ _ (by simp [Event.isSample])
  unfold readHalf checkHalf
  split
  · refine ⟨k.trans ((keeps_busDesel t _).trans ((keeps_closeFile _).trans (keeps_setResult r _))), rfl, rfl, ?_⟩
    rw [he, busDesel_eq]
    rfl
  · refine ⟨k.trans (keeps_work _ _), ?_, ?_, ?_⟩ <;> rw [he] <;> rfl

theorem endRow_ends (r : ResultCode) (p : Pass) (i : Nat) (s : State) (h : i < s.cfg.h) :
    PassEnds r s (.done (endRow p i s)) := by
  refine ⟨(keeps_setProgress p (i + 1) s h).trans (keeps_keepalivePoint i _), ?_, ?_, ?_⟩ <;>
    (unfold endRow keepalivePoint; split <;> rfl)

theorem masterRow_ends (i : Nat) (s : State) (h : i < s.cfg.h) : PassEnds .shortReadMaster s (masterRow i s) := by
  refine PassEnds.after (s' := startRow i s) (keeps_work s _) rfl rfl rfl ?_
  refine (readHalf_ends _ _ (startRow i s)).andThen fun t ht => ?_
  refine PassEnds.after (keeps_busBlock t.work.rowbuf t) ?_ ?_ ?_
    ((readHalf_ends _ _ _).andThen fun u hu => endRow_ends _ _ i u ?_)
  · rw [busBlock_eq]
  · rw [busBlock_eq]
  · rw [busBlock_eq]
  · rw [hu, (keeps_busBlock t.work.rowbuf t).cfg, ht]
    exact h

theorem slaveRow_ends (i : Nat) (s : State) (h : i < s.cfg.h) : PassEnds .shortReadSlave s (slaveRow i s) := by
  refine PassEnds.after (s' := startRow i s) (keeps_work s _) rfl rfl rfl ?_
  refine (readHalf_ends _ _ (startRow i s)).andThen fun t ht => (readHalf_ends _ _ t).andThen fun u hu => ?_
  refine PassEnds.after (keeps_busBlock u.work.rowbuf u) ?_ ?_ ?_ (endRow_ends _ _ i _ ?_)
  · rw [busBlock_eq]
  · rw [busBlock_eq]
  · rw [busBlock_eq]
  · rw [(keeps_busBlock u.work.rowbuf u).cfg, hu, ht]
    exact h

theorem rowsFrom_ends (rc : ResultCode) (row : Nat → State → Ran) (h : Nat)
    (hrow : ∀ i t, t.cfg.h = h → i < h → PassEnds rc t (row i t)) (n i : Nat) (s : State) (hs : s.cfg.h = h)
    (hn : i + n ≤ h) : PassEnds rc s (rowsFrom row n i s) := by
  induction n generalizing i s with
  | zero => exact ⟨.refl s, rfl, rfl, rfl⟩
  | succ n ih =>
    exact (hrow i s hs (by omega)).andThen fun t ht => ih (i + 1) t (by rw [ht, hs]) (by omega)

theorem busDesel_ends (r : ResultCode) (t : Target) (s : State) : PassEnds r s (.done (busDesel t s)) := by
  refine ⟨keeps_busDesel t s, ?_, ?_, ?_⟩ <;> rw [busDesel_eq]

theorem masterPass_ends (s : State) : PassEnds .shortReadMaster s (masterPass s) := by
  have k : RenderKeeps s (masterStart s) := (keeps_work s _).trans ((keeps_busSel .master _).trans (keeps_busCmd _ _))
  have e : masterStart s = { s with
      csm := true, css := false, dc := s.cfg.dcCmd, work := (masterStart s).work, trace := (masterStart s).trace } := by
    simp [masterStart, busSel_eq, busCmd_eq, Target.hasM, Target.hasS]
  refine PassEnds.after k (by rw [e]) (by rw [e]) (by rw [e])
    ((rowsFrom_ends _ _ s.cfg.h ?_ s.cfg.h 0 _ (by rw [e]) (by omega)).andThen fun t _ => busDesel_ends _ _ t)
  intro i t ht hi
  exact masterRow_ends i t (by omega)

theorem slavePass_ends (s : State) : PassEnds .shortReadSlave s (slavePass s) := by
  have k : RenderKeeps s (slaveStart s) := (keeps_work s _).trans ((keeps_seekStart _).trans
    ((keeps_busSel .slave _).trans ((keeps_busCmd _ _).trans (keeps_setProgress .slave 0 _ (Nat.zero_le _)))))
  have e : slaveStart s = { s with
      csm := false, css := true, dc := s.cfg.dcCmd, rprog := ⟨.slave, 0⟩, work := (slaveStart s).work
      trace := (slaveStart s).trace } := by
    simp [slaveStart, busSel_eq, busCmd_eq, setProgress, seekStart, emit, Target.hasM, Target.hasS]
  refine PassEnds.after k (by rw [e]) (by rw [e]) (by rw [e])
    ((rowsFrom_ends _ _ s.cfg.h ?_ s.cfg.h 0 _ (by rw [e]) (by omega)).andThen fun t _ => busDesel_ends _ _ t)
  intro i t ht hi
  exact slaveRow_ends i t (by omega)

/-- The ways a render's body can end (R160): completed, with `render_ok` set, or by NO_IMAGE or a short read, with
`render_ok` clear; the file is closed either way. -/
def RenderEnds (s : State) : Ran → Prop
  | .done t => RenderKeeps s t ∧ t.openFile = none ∧ t.result = s.result ∧ t.renderOk = true
  | .raised t => RenderKeeps s t ∧ t.openFile = none ∧ t.renderOk = false
      ∧ t.result ∈ [ResultCode.noImage.code, ResultCode.shortReadMaster.code, ResultCode.shortReadSlave.code]

theorem renderPasses_ends (s : State) (h : s.renderOk = false) : RenderEnds s (renderPasses s) := by
  have hm := masterPass_ends s
  unfold renderPasses
  cases hms : masterPass s with
  | raised t =>
    rw [hms] at hm
    exact ⟨hm.1, hm.2.1, hm.2.2.2.trans h, by simp [hm.2.2.1]⟩
  | done t =>
    rw [hms] at hm
    have hs := slavePass_ends (delay .passSettle t)
    show RenderEnds s ((slavePass (delay .passSettle t)).andThen _)
    cases hss : slavePass (delay .passSettle t) with
    | raised u =>
      rw [hss] at hs
      exact ⟨hm.1.trans ((keeps_delay _ t).trans hs.1), hs.2.1, hs.2.2.2.trans (hm.2.2.2.trans h), by simp [hs.2.2.1]⟩
    | done u =>
      rw [hss] at hs
      exact ⟨hm.1.trans ((keeps_delay _ t).trans (hs.1.trans ((keeps_closeFile u).trans (keeps_renderOk true _)))), rfl,
        hs.2.2.1.trans hm.2.2.1, rfl⟩

/-- `render_body()`, whatever the storage answers (R160). -/
theorem renderBody_ends (s : State) : RenderEnds s (renderBody s) := by
  obtain ⟨r, env', he⟩ := sizeQuery_eq (setProgress .master 0 { s with renderOk := false })
  have k : RenderKeeps s (startRender s) := by
    rw [startRender, he]
    exact (keeps_renderOk false s).trans ((keeps_setProgress .master 0 _ (Nat.zero_le _)).trans
      (.of_update _ _ _ _ _ _ _ _ _ _ (by simp [Event.isSample])))
  have hk : (startRender s).renderOk = false := by rw [startRender, he]; rfl
  have hr : (startRender s).result = s.result := by rw [startRender, he]; rfl
  unfold renderBody renderOpened
  generalize startRender s = u at *
  split
  · next ho => exact ⟨k.trans (keeps_setResult _ u), ho, hk, by simp [setResult]⟩
  · split
    · exact ⟨k.trans ((keeps_closeFile u).trans (keeps_setResult _ _)), rfl, hk, by simp [setResult]⟩
    · have := renderPasses_ends u hk
      cases hu : renderPasses u with
      | done t => rw [hu] at this; exact ⟨k.trans this.1, this.2.1, this.2.2.1.trans hr, this.2.2.2⟩
      | raised t => rw [hu] at this; exact ⟨k.trans this.1, this.2.1, this.2.2.1, this.2.2.2⟩

end Sys2Proof.Machine
end

