-- ==== Sys2Proof/Laws/RenderEvents.lean ====
section
/-! SUPPORT. Which events a render emits, whatever the storage answers, and where they end (spec/42_renderer.md R160 to
R165). -/

namespace Sys2Proof.Machine

/-- `s` to `t` keeps the configuration `c` and appends events of a pass. -/
def PassTrace (c : Config) (s t : State) : Prop :=
  t.cfg = c ∧ ∃ evs, t.trace = s.trace ++ evs ∧ ∀ e ∈ evs, passEvent c e = true

theorem PassTrace.of_events {c : Config} {s t : State} (hc : t.cfg = c) (evs : List Event) (ht : t.trace = s.trace ++ evs)
    (h : ∀ e ∈ evs, passEvent c e = true) : PassTrace c s t := ⟨hc, evs, ht, h⟩

theorem PassTrace.of_same {c : Config} {s t : State} (hc : t.cfg = c) (ht : t.trace = s.trace) : PassTrace c s t :=
  ⟨hc, [], by simpa using ht, by simp⟩

theorem PassTrace.trans {c : Config} {s t u : State} (h : PassTrace c s t) (k : PassTrace c t u) : PassTrace c s u := by
  obtain ⟨-, e1, h1, n1⟩ := h
  obtain ⟨hc, e2, h2, n2⟩ := k
  refine ⟨hc, e1 ++ e2, by rw [h2, h1, List.append_assoc], fun e he => ?_⟩
  exact (List.mem_append.1 he).elim (n1 e) (n2 e)

theorem passTrace_busSel (c : Config) (t : Target) (s : State) (hc : s.cfg = c) : PassTrace c s (busSel t s) := by
  rw [busSel_eq]
  refine .of_events hc _ rfl ?_
  cases s.csm <;> cases s.css <;> cases t <;> simp [selEvents, Target.hasM, Target.hasS, passEvent]

theorem passTrace_busDesel (c : Config) (t : Target) (s : State) (hc : s.cfg = c) : PassTrace c s (busDesel t s) := by
  rw [busDesel_eq]
  refine .of_events hc _ rfl ?_
  cases s.csm <;> cases s.css <;> cases t <;> simp [deselEvents, Target.hasM, Target.hasS, passEvent]

/-- The only command of a pass is the data-transfer command. -/
theorem passTrace_busCmd (c : Config) (s : State) (hc : s.cfg = c) : PassTrace c s (busCmd s.cfg.cmdDtm s) := by
  subst hc
  exact .of_events rfl [_] rfl (by simp [passEvent])

theorem passTrace_busBlock (c : Config) (bs : List Byte) (s : State) (hc : s.cfg = c) :
    PassTrace c s (busBlock bs s) := by
  subst hc
  rw [busBlock_eq]
  exact .of_events rfl _ rfl (by simp [passEvent])

theorem passTrace_memRead (c : Config) (off n : Nat) (s : State) (hc : s.cfg = c) : PassTrace c s (memRead off n s) := by
  obtain ⟨d, env', -, he⟩ := memRead_eq off n s
  rw [he]
  exact .of_events hc [_] rfl (by simp [passEvent])

theorem passTrace_endRow (c : Config) (p : Pass) (r : Nat) (s : State) (hc : s.cfg = c) :
    PassTrace c s (endRow p r s) := by
  unfold endRow keepalivePoint
  split
  · exact .of_events hc [.keepalive] rfl (by simp [passEvent])
  · exact .of_same hc rfl

/-- How the events of part of a pass end: it goes on, or it raises with SCLOSE as its last event (R165). -/
def PartTrace (c : Config) (s : State) : Ran → Prop
  | .done t => PassTrace c s t
  | .raised t => ∃ u, PassTrace c s u ∧ t.trace = u.trace ++ [.sclose]

theorem PartTrace.after {c : Config} {s s' : State} {x : Ran} (h : PassTrace c s s') (hx : PartTrace c s' x) :
    PartTrace c s x := by
  cases x with
  | done t => exact h.trans hx
  | raised t =>
    obtain ⟨u, hu, ht⟩ := hx
    exact ⟨u, h.trans hu, ht⟩

theorem PartTrace.andThen {c : Config} {s : State} {x : Ran} {f : State → Ran} (hx : PartTrace c s x)
    (hf : ∀ t, t.cfg = c → PartTrace c t (f t)) : PartTrace c s (x.andThen f) := by
  cases x with
  | raised t => exact hx
  | done t => exact .after hx (hf t hx.1)

theorem readHalf_trace (c : Config) (t : Target) (r : ResultCode) (s : State) (hc : s.cfg = c) :
    PartTrace c s (readHalf t r s) := by
  have h := passTrace_memRead c s.work.cur s.cfg.half s hc
  unfold readHalf checkHalf
  split
  · exact ⟨_, h.trans (passTrace_busDesel c t _ h.1), rfl⟩
  · exact h.trans (.of_same h.1 rfl)

theorem masterRow_trace (c : Config) (r : Nat) (s : State) (hc : s.cfg = c) : PartTrace c s (masterRow r s) := by
  refine PartTrace.after (s' := startRow r s) (.of_same hc rfl)
    ((readHalf_trace c _ _ (startRow r s) hc).andThen fun t ht => ?_)
  have hb := passTrace_busBlock c t.work.rowbuf t ht
  exact .after hb ((readHalf_trace c _ _ _ hb.1).andThen fun u hu => passTrace_endRow c _ r u hu)

theorem slaveRow_trace (c : Config) (r : Nat) (s : State) (hc : s.cfg = c) : PartTrace c s (slaveRow r s) := by
  refine PartTrace.after (s' := startRow r s) (.of_same hc rfl)
    ((readHalf_trace c _ _ (startRow r s) hc).andThen fun t ht => (readHalf_trace c _ _ t ht).andThen fun u hu => ?_)
  have hb := passTrace_busBlock c u.work.rowbuf u hu
  exact hb.trans (passTrace_endRow c _ r _ hb.1)

theorem rowsFrom_trace (c : Config) (row : Nat → State → Ran) (hrow : ∀ r s, s.cfg = c → PartTrace c s (row r s))
    (n r : Nat) (s : State) (hc : s.cfg = c) : PartTrace c s (rowsFrom row n r s) := by
  induction n generalizing r s with
  | zero => exact .of_same hc rfl
  | succ n ih => exact (hrow r s hc).andThen fun t ht => ih (r + 1) t ht

theorem masterPass_trace (c : Config) (s : State) (hc : s.cfg = c) : PartTrace c s (masterPass s) := by
  have h0 : PassTrace c s { s with work := { s.work with cur := 0, pass := .master } } := .of_same hc rfl
  have h1 := h0.trans (passTrace_busSel c .master _ h0.1)
  have h2 := h1.trans (passTrace_busCmd c _ h1.1)
  have e : masterStart s = busCmd (busSel .master { s with work := { s.work with cur := 0, pass := .master } }).cfg.cmdDtm
      (busSel .master { s with work := { s.work with cur := 0, pass := .master } }) := by
    rw [masterStart, busSel_eq]
  rw [← e] at h2
  exact .after h2 ((rowsFrom_trace c _ (masterRow_trace c) _ _ _ h2.1).andThen fun t ht => passTrace_busDesel c _ t ht)

theorem slavePass_trace (c : Config) (s : State) (hc : s.cfg = c) : PartTrace c s (slavePass s) := by
  have h0 : PassTrace c s (seekStart { s with work := { s.work with pass := .slave } }) :=
    .of_events hc [.sseek 0] rfl (by simp [passEvent])
  have h1 := h0.trans (passTrace_busSel c .slave _ h0.1)
  have h2 := h1.trans (passTrace_busCmd c _ h1.1)
  have e : slaveStart s = setProgress .slave 0 (busCmd (busSel .slave
      (seekStart { s with work := { s.work with pass := .slave } })).cfg.cmdDtm
      (busSel .slave (seekStart { s with work := { s.work with pass := .slave } }))) := by
    rw [slaveStart, busSel_eq]
    rfl
  have h3 : PassTrace c s (slaveStart s) := by
    rw [e]
    exact h2.trans (.of_same h2.1 rfl)
  exact .after h3 ((rowsFrom_trace c _ (slaveRow_trace c) _ _ _ h3.1).andThen fun t ht => passTrace_busDesel c _ t ht)

/-- The events of `render_body()`, whatever the storage answers (R160): SOPEN alone when there is no file, else SOPEN, events
of the passes, and SCLOSE last; a render that completes is among the latter. -/
theorem renderBody_trace (s : State) :
    ∃ evs, (renderBody s).state.trace = s.trace ++ evs
      ∧ (evs = [.sopen none] ∨ ∃ n mid, evs = [.sopen (some n)] ++ mid ++ [.sclose] ∧ ∀ e ∈ mid, passEvent s.cfg e = true) := by
  obtain ⟨r, env', he⟩ := sizeQuery_eq (setProgress .master 0 { s with renderOk := false })
  have hq : startRender s = _ := he
  have hc : (startRender s).cfg = s.cfg := by rw [hq]; rfl
  have ht : (startRender s).trace = s.trace ++ [.sopen (r.map List.length)] := by rw [hq]; rfl
  have ho : (startRender s).openFile = r.map StoredFile.ofBytes := by rw [hq]
  unfold renderBody renderOpened
  generalize startRender s = u at *
  cases r with
  | none =>
    rw [ho]
    exact ⟨_, ht, .inl rfl⟩
  | some F =>
    rw [ho]
    have ends : ∀ v w : State, PassTrace s.cfg u v → w.trace = v.trace ++ [.sclose] →
        ∃ evs, w.trace = s.trace ++ evs ∧ (evs = [.sopen none]
          ∨ ∃ n mid, evs = [.sopen (some n)] ++ mid ++ [.sclose] ∧ ∀ e ∈ mid, passEvent s.cfg e = true) := by
      rintro v w ⟨-, mid, hm, hp⟩ hw
      exact ⟨[.sopen (some F.length)] ++ mid ++ [.sclose], by rw [hw, hm, ht]; simp, .inr ⟨_, mid, rfl, hp⟩⟩
    simp only [Option.map_some]
    split
    · exact ends u _ (.of_same hc rfl) rfl
    · have hm := masterPass_trace s.cfg u hc
      unfold renderPasses
      cases hmu : masterPass u with
      | raised v =>
        rw [hmu] at hm
        obtain ⟨w, hw, hv⟩ := hm
        exact ends w v hw hv
      | done v =>
        rw [hmu] at hm
        have hd : PassTrace s.cfg u (delay .passSettle v) :=
          PassTrace.trans hm (.of_events hm.1 [_] rfl (by simp [passEvent]))
        have hs := PartTrace.after hd (slavePass_trace s.cfg (delay .passSettle v) hd.1)
        simp only [Ran.andThen]
        cases hsu : slavePass (delay .passSettle v) with
        | raised w =>
          rw [hsu] at hs
          obtain ⟨x, hx, hw⟩ := hs
          exact ends x w hx hw
        | done w =>
          rw [hsu] at hs
          exact ends w _ hs rfl

end Sys2Proof.Machine
end

