-- ==== Sys2Proof/Laws/RenderWhole.lean ====
section
/-! SUPPORT. What the rows and passes of a render do while the storage answers whole reads of a file of the right size
(spec/42_renderer.md R161, R164). -/

namespace Sys2Proof.Machine

/-- With `W mod 4 = 0` a row is two half-rows (R7). -/
theorem bpr_eq_two_half {c : Config} (h : c.valid = true) : c.bpr = c.half + c.half := by
  simp only [Config.valid, Bool.and_eq_true, decide_eq_true_eq] at h
  simp only [Config.bpr, Config.half]
  omega

/-- The state after a whole read of a half-row, with `rest` the answers still pending (R62). -/
def afterHalf (F : List Byte) (rest : List ReadReply) (s : State) : State :=
  { s with
    env := { s.env with readIn := rest }
    work := { s.work with rowbuf := fileBytes F s.work.cur s.cfg.half, cur := s.work.cur + s.cfg.half }
    trace := s.trace ++ [.sread s.work.cur s.cfg.half s.cfg.half] }

/-- A whole read of a half-row inside the file (R62, R64). -/
theorem readHalf_whole (t : Target) (r : ResultCode) (s : State) (F : List Byte) (rest : List ReadReply)
    (ho : s.openFile = some (StoredFile.ofBytes F)) (hr : s.env.readIn = .whole :: rest)
    (hlen : s.work.cur + s.cfg.half ≤ F.length) : readHalf t r s = .done (afterHalf F rest s) := by
  have hl : (fileBytes F s.work.cur s.cfg.half).length = s.cfg.half := by rw [length_fileBytes]; omega
  have hb : (ReadReply.whole).bytes s.cfg.half (fileSlice s s.work.cur s.cfg.half)
      = fileBytes F s.work.cur s.cfg.half := by
    simp [ReadReply.bytes, fileSlice, ho, StoredFile.slice_ofBytes]
  rw [readHalf, memRead_pending _ _ _ _ _ hr, hb, hl]
  simp [checkHalf, hl, advanceCur, afterHalf]

/-- Row `r` of the master pass with whole reads (R161). -/
theorem masterRow_whole (r : Nat) (s : State) (F : List Byte) (rest : List ReadReply)
    (hv : s.cfg.bpr = s.cfg.half + s.cfg.half) (ho : s.openFile = some (StoredFile.ofBytes F))
    (hr : s.env.readIn = .whole :: .whole :: rest) (hcur : s.work.cur = r * s.cfg.bpr)
    (hlen : (r + 1) * s.cfg.bpr ≤ F.length) (hm : s.csm = true) (hs : s.css = false) :
    ∃ w, w.cur = (r + 1) * s.cfg.bpr ∧ masterRow r s = .done { s with
      env := { s.env with readIn := rest }, dc := s.cfg.dcData, rprog := ⟨.master, BitVec.ofNat 11 (r + 1)⟩, work := w
      trace := s.trace ++ masterRowEvents s.cfg F r } := by
  have hb : (r + 1) * s.cfg.bpr = r * s.cfg.bpr + s.cfg.half + s.cfg.half := by rw [Nat.add_mul, Nat.one_mul, hv]; omega
  refine ⟨{ s.work with row := r, rowbuf := slaveHalf s.cfg F r, cur := (r + 1) * s.cfg.bpr }, rfl, ?_⟩
  have h1 := readHalf_whole .master .shortReadMaster (startRow r s) F (.whole :: rest) ho hr
    (by simp [startRow, hcur]; omega)
  have h2 := readHalf_whole .master .shortReadMaster
    (busBlock (afterHalf F (.whole :: rest) (startRow r s)).work.rowbuf (afterHalf F (.whole :: rest) (startRow r s)))
    F rest (by rw [busBlock_eq]; exact ho) (by rw [busBlock_eq]; rfl)
    (by simp [busBlock_eq, afterHalf, startRow, hcur]; omega)
  simp only [masterRow, h1, h2, Ran.andThen]
  simp only [endRow, keepalivePoint, setProgress, afterHalf, busBlock_eq, startRow, hcur, hb, masterRowEvents, masterHalf,
    slaveHalf, keepaliveEvents, State.sel, hm, hs, Target.sel, Target.hasM, Target.hasS]
  split <;> simp [emit, List.append_assoc]

/-- Row `r` of the slave pass with whole reads (R164). -/
theorem slaveRow_whole (r : Nat) (s : State) (F : List Byte) (rest : List ReadReply)
    (hv : s.cfg.bpr = s.cfg.half + s.cfg.half) (ho : s.openFile = some (StoredFile.ofBytes F))
    (hr : s.env.readIn = .whole :: .whole :: rest) (hcur : s.work.cur = r * s.cfg.bpr)
    (hlen : (r + 1) * s.cfg.bpr ≤ F.length) (hm : s.csm = false) (hs : s.css = true) :
    ∃ w, w.cur = (r + 1) * s.cfg.bpr ∧ slaveRow r s = .done { s with
      env := { s.env with readIn := rest }, dc := s.cfg.dcData, rprog := ⟨.slave, BitVec.ofNat 11 (r + 1)⟩, work := w
      trace := s.trace ++ slaveRowEvents s.cfg F r } := by
  have hb : (r + 1) * s.cfg.bpr = r * s.cfg.bpr + s.cfg.half + s.cfg.half := by rw [Nat.add_mul, Nat.one_mul, hv]; omega
  refine ⟨{ s.work with row := r, rowbuf := slaveHalf s.cfg F r, cur := (r + 1) * s.cfg.bpr }, rfl, ?_⟩
  have h1 := readHalf_whole .slave .shortReadSlave (startRow r s) F (.whole :: rest) ho hr
    (by simp [startRow, hcur]; omega)
  have h2 := readHalf_whole .slave .shortReadSlave (afterHalf F (.whole :: rest) (startRow r s)) F rest ho rfl
    (by simp [afterHalf, startRow, hcur]; omega)
  simp only [slaveRow, h1, h2, Ran.andThen]
  simp only [endRow, keepalivePoint, setProgress, afterHalf, busBlock_eq, startRow, hcur, hb, slaveRowEvents,
    slaveHalf, keepaliveEvents, State.sel, hm, hs, Target.sel, Target.hasM, Target.hasS]
  split <;> simp [emit, List.append_assoc]

/-- What one row of a pass does with whole reads: `ev r` are its events, `p` its pass. -/
def RowWhole (row : Nat → State → Ran) (p : Pass) (ev : Config → Nat → List Event) (F : List Byte) (m ss : Bool) : Prop :=
  ∀ (r : Nat) (s : State) (rest : List ReadReply), s.cfg.bpr = s.cfg.half + s.cfg.half →
    s.openFile = some (StoredFile.ofBytes F) → s.env.readIn = .whole :: .whole :: rest → s.work.cur = r * s.cfg.bpr →
    (r + 1) * s.cfg.bpr ≤ F.length → s.csm = m → s.css = ss →
    ∃ w, w.cur = (r + 1) * s.cfg.bpr ∧ row r s = .done { s with
      env := { s.env with readIn := rest }, dc := s.cfg.dcData, rprog := ⟨p, BitVec.ofNat 11 (r + 1)⟩, work := w
      trace := s.trace ++ ev s.cfg r }

/-- `n + 1` rows from row `r` on with whole reads (R161, R164). -/
theorem rowsFrom_whole {row : Nat → State → Ran} {p : Pass} {ev : Config → Nat → List Event} {F : List Byte} {m ss : Bool}
    (hrow : RowWhole row p ev F m ss) (n r : Nat) (s : State) (rest : List ReadReply)
    (hv : s.cfg.bpr = s.cfg.half + s.cfg.half) (ho : s.openFile = some (StoredFile.ofBytes F))
    (hr : s.env.readIn = List.replicate (2 * (n + 1)) .whole ++ rest) (hcur : s.work.cur = r * s.cfg.bpr)
    (hlen : (r + (n + 1)) * s.cfg.bpr ≤ F.length) (hm : s.csm = m) (hs : s.css = ss) :
    ∃ w, rowsFrom row (n + 1) r s = .done { s with
      env := { s.env with readIn := rest }, dc := s.cfg.dcData, rprog := ⟨p, BitVec.ofNat 11 (r + (n + 1))⟩, work := w
      trace := s.trace ++ (List.range' r (n + 1)).flatMap (ev s.cfg) } := by
  have hle : (r + 1) * s.cfg.bpr ≤ F.length := le_trans (Nat.mul_le_mul_right _ (by omega)) hlen
  have hr' : s.env.readIn = .whole :: .whole :: (List.replicate (2 * n) .whole ++ rest) := by
    rw [hr, show 2 * (n + 1) = 2 * n + 1 + 1 by omega, List.replicate_succ, List.replicate_succ]; rfl
  obtain ⟨w, hw, he⟩ := hrow r s _ hv ho hr' hcur hle hm hs
  rw [rowsFrom, he, Ran.andThen]
  cases n with
  | zero => exact ⟨w, by simp [rowsFrom]⟩
  | succ n =>
    obtain ⟨w', he'⟩ := rowsFrom_whole hrow n (r + 1) { s with
      env := { s.env with readIn := List.replicate (2 * (n + 1)) .whole ++ rest }, dc := s.cfg.dcData
      rprog := ⟨p, BitVec.ofNat 11 (r + 1)⟩, work := w, trace := s.trace ++ ev s.cfg r } rest hv ho rfl hw
      (by rw [show r + 1 + (n + 1) = r + (n + 1 + 1) by omega]; exact hlen) hm hs
    refine ⟨w', ?_⟩
    rw [he', show r + (n + 1 + 1) = r + 1 + (n + 1) by omega, show List.range' r (n + 1 + 1)
      = r :: List.range' (r + 1) (n + 1) from rfl]
    simp

theorem height_pos {c : Config} (h : c.valid = true) : ∃ n, c.h = n + 1 := by
  simp only [Config.valid, Bool.and_eq_true] at h
  cases hh : c.h with
  | zero => rw [hh] at h; simp [atLeastOne] at h
  | succ n => exact ⟨n, rfl⟩

/-- The master pass over a file of size FB_SIZE with whole reads (R161). -/
theorem masterPass_whole (s : State) (F : List Byte) (rest : List ReadReply) (hv : s.cfg.valid = true)
    (ho : s.openFile = some (StoredFile.ofBytes F)) (hF : F.length = s.cfg.fbSize)
    (hr : s.env.readIn = List.replicate (2 * s.cfg.h) .whole ++ rest) :
    ∃ w, masterPass s = .done { s with
      env := { s.env with readIn := rest }, csm := false, css := false, dc := s.cfg.dcData
      rprog := ⟨.master, BitVec.ofNat 11 s.cfg.h⟩, work := w
      trace := s.trace ++ masterPassEvents s.cfg s.csm s.css F } := by
  obtain ⟨n, hn⟩ := height_pos hv
  have e : masterStart s = { s with
      csm := true, css := false, dc := s.cfg.dcCmd, work := { s.work with cur := 0, pass := .master }
      trace := s.trace ++ selEvents s.cfg s.csm s.css .master ++ [.xfer s.cfg.dcCmd Target.master.sel s.cfg.cmdDtm] } := by
    simp [masterStart, busSel_eq, busCmd_eq, State.sel, Target.sel, Target.hasM, Target.hasS]
  obtain ⟨w, hw⟩ := rowsFrom_whole (ev := fun c => masterRowEvents c F) (fun r s rest => masterRow_whole r s F rest) n 0
    (masterStart s) rest (by rw [e]; exact bpr_eq_two_half hv) (by rw [e]; exact ho) (by rw [e, ← hn]; exact hr)
    (by rw [e]; simp) (by rw [e, Nat.zero_add, ← hn, hF]; exact le_refl _) (by rw [e]) (by rw [e])
  refine ⟨w, ?_⟩
  rw [masterPass, hn, hw, Ran.andThen, busDesel_eq, e]
  simp [masterPassEvents, rowEvents, deselEvents, Target.hasM, Target.hasS, hn, List.range_eq_range']

/-- The slave pass over a file of size FB_SIZE with whole reads, from released lines (R164). -/
theorem slavePass_whole (s : State) (F : List Byte) (rest : List ReadReply) (hv : s.cfg.valid = true)
    (ho : s.openFile = some (StoredFile.ofBytes F)) (hF : F.length = s.cfg.fbSize)
    (hr : s.env.readIn = List.replicate (2 * s.cfg.h) .whole ++ rest) (hm : s.csm = false) (hs : s.css = false) :
    ∃ w, slavePass s = .done { s with
      env := { s.env with readIn := rest }, csm := false, css := false, dc := s.cfg.dcData
      rprog := ⟨.slave, BitVec.ofNat 11 s.cfg.h⟩, work := w
      trace := s.trace ++ slavePassEvents s.cfg F } := by
  obtain ⟨n, hn⟩ := height_pos hv
  have e : slaveStart s = { s with
      csm := false, css := true, dc := s.cfg.dcCmd, work := { s.work with cur := 0, pass := .slave }, rprog := ⟨.slave, 0⟩
      trace := s.trace ++ [.sseek 0] ++ selEvents s.cfg false false .slave
        ++ [.xfer s.cfg.dcCmd Target.slave.sel s.cfg.cmdDtm] } := by
    simp [slaveStart, busSel_eq, busCmd_eq, State.sel, Target.sel, Target.hasM, Target.hasS, seekStart, emit, setProgress,
      hm, hs]
  obtain ⟨w, hw⟩ := rowsFrom_whole (ev := fun c => slaveRowEvents c F) (fun r s rest => slaveRow_whole r s F rest) n 0
    (slaveStart s) rest (by rw [e]; exact bpr_eq_two_half hv) (by rw [e]; exact ho) (by rw [e, ← hn]; exact hr)
    (by rw [e]; simp) (by rw [e, Nat.zero_add, ← hn, hF]; exact le_refl _) (by rw [e]) (by rw [e])
  refine ⟨w, ?_⟩
  rw [slavePass, hn, hw, Ran.andThen, busDesel_eq, e]
  simp [slavePassEvents, rowEvents, deselEvents, Target.hasM, Target.hasS, hn, List.range_eq_range']

/-- `render_body()` on a file of size FB_SIZE with whole reads (R160). -/
theorem renderBody_whole (s : State) (F : List Byte) (files : List (Option (List Byte))) (rest : List ReadReply)
    (hv : s.cfg.valid = true) (hf : s.env.openIn = some F :: files) (hF : F.length = s.cfg.fbSize)
    (hr : s.env.readIn = List.replicate (4 * s.cfg.h) .whole ++ rest) :
    ∃ w, renderBody s = .done { s with
      env := { s.env with openIn := files, readIn := rest }, csm := false, css := false, dc := s.cfg.dcData
      renderOk := true, rprog := ⟨.slave, BitVec.ofNat 11 s.cfg.h⟩, work := w, openFile := none
      trace := s.trace ++ renderEvents s.cfg s.csm s.css F } := by
  have hr' : s.env.readIn = List.replicate (2 * s.cfg.h) .whole ++ (List.replicate (2 * s.cfg.h) .whole ++ rest) := by
    rw [hr, ← List.append_assoc, List.replicate_append_replicate]; congr 2; omega
  have hq := sizeQuery_pending (setProgress .master 0 { s with renderOk := false }) (some F) files hf
  obtain ⟨w1, h1⟩ := masterPass_whole (startRender s) F (List.replicate (2 * s.cfg.h) .whole ++ rest)
    (by rw [startRender, hq]; exact hv) (by rw [startRender, hq]; rfl) (by rw [startRender, hq]; exact hF)
    (by rw [startRender, hq]; exact hr')
  obtain ⟨w2, h2⟩ := slavePass_whole (delay .passSettle { startRender s with
      env := { (startRender s).env with readIn := List.replicate (2 * s.cfg.h) .whole ++ rest }, csm := false, css := false
      dc := (startRender s).cfg.dcData, rprog := ⟨.master, BitVec.ofNat 11 (startRender s).cfg.h⟩, work := w1
      trace := (startRender s).trace ++ masterPassEvents (startRender s).cfg (startRender s).csm (startRender s).css F })
    F rest (by rw [startRender, hq]; exact hv) (by rw [startRender, hq]; rfl) (by rw [startRender, hq]; exact hF)
    (by rw [startRender, hq]; rfl) rfl rfl
  have ho : (startRender s).openFile = some (StoredFile.ofBytes F) := by rw [startRender, hq]; rfl
  have hsz : (StoredFile.ofBytes F).size = (startRender s).cfg.fbSize := by rw [startRender, hq]; exact hF
  refine ⟨w2, ?_⟩
  rw [renderBody, renderOpened, ho]
  simp only [hsz, ne_eq, not_true_eq_false, if_false]
  rw [renderPasses, h1, Ran.andThen, h2, Ran.andThen, startRender, hq]
  simp [renderEvents, closeFile, emit, delay, setProgress]

end Sys2Proof.Machine
end

