-- ==== Sys2Proof/Laws/Step.lean ====
section
/-! SUPPORT. What a step can do, said once (spec/10_state.md R30, R51). -/

namespace Sys2Proof.Machine

/-- A step that answers a next state: the idle sequencer of an accepted configuration is at the program's end and stays, or
takes an illegal word, or takes an operation, whose words are all there. -/
theorem step_cases {s t : State} (h : step s = .next t) :
    s.phase = .idle ∧ s.cfg.valid = true
      ∧ ((s.prog.drop s.pc = [] ∧ t = s)
        ∨ (∃ w rest, decode (s.prog.drop s.pc) = .illegal w rest ∧ s.prog.drop s.pc = w :: rest ∧ execIllegal s = .next t)
        ∨ ∃ i rest, decode (s.prog.drop s.pc) = .op i rest ∧ rest = s.prog.drop (s.pc + i.words)
            ∧ s.pc + i.words ≤ s.prog.length ∧ 1 ≤ i.words ∧ exec i (takeOp i s) = .next t) := by
  unfold step at h
  split at h
  · cases h
  · next hp =>
    split at h
    · cases h
    · next hv =>
      refine ⟨by simpa using hp, by simpa using hv, ?_⟩
      unfold State.fetch at h
      cases hd : decode (s.prog.drop s.pc) with
      | empty =>
        rw [hd] at h
        exact .inl ⟨(decode_empty _).1 hd, (Host.Outcome.next.inj h).symm⟩
      | truncated => rw [hd] at h; cases h
      | illegal w rest => rw [hd] at h; exact .inr (.inl ⟨w, rest, rfl, decode_illegal _ _ _ hd, h⟩)
      | op i rest =>
        rw [hd] at h
        obtain ⟨hr, hl, h1⟩ := decode_op _ _ _ hd
        rw [List.length_drop] at hl
        exact .inr (.inr ⟨i, rest, rfl, by rw [hr, List.drop_drop], by omega, h1, h⟩)

/-- Every meaning answers a next state, in every state (R202). -/
theorem exec_next (i : Instr) (s : State) : ∃ t, exec i s = .next t := by
  cases i <;> exact ⟨_, rfl⟩

end Sys2Proof.Machine
end

