-- ==== Sys2Proof/Tests/Slice0.lean ====
section
/-! SUPPORT. The model's own tests. The expected results are the vectors of spec/95_test_vectors.md, named in each
comment, with its test configuration TC and its 12-byte file. -/

namespace Sys2Proof.Tests

open Sys2Proof.Machine

/-- The configuration TC of spec/95_test_vectors.md. -/
def tc : Config where
  w := 8
  h := 3
  yieldRows := 2
  nPolls := 2
  resetSeq := [⟨.high, 1⟩, ⟨.low, 1⟩, ⟨.high, 1⟩]
  initTable := [⟨.both, 0xA0, [0x11]⟩, ⟨.master, 0xA1, []⟩, ⟨.slave, 0xA2, [0x22, 0x33]⟩]
  cmdDtm := 0x10
  cmdPon := 0x04
  cmdDrf := 0x12
  drfParam := 0x00
  cmdPof := 0x02
  pofParam := 0x00
  cycleTarget := .both
  busyActive := .low
  csActive := .low
  dcCmd := .low
  dcData := .high
  bitOrder := .msbFirst
  rstReset := .high
  tPoll := 10
  tBusyTimeout := 15
  tBusySettle := 1
  tPonSettle := 1
  tPassSettle := 1
  spiMode := 0
  sclkFreq := 1

/-- The file `F`. -/
def fileF : List Byte := [0x00, 0x01, 0x02, 0x03, 0x04, 0x05, 0x06, 0x07, 0x08, 0x09, 0x0A, 0x0B]

/-- TC right after reset. -/
def fresh : State := State.resetWith tc

/-- `fresh` with the panel's and the storage's next answers. -/
def withAnswers (busy : List Level) (files : List (Option (List Byte))) (reads : List ReadReply) (s : State) : State :=
  { s with env := { busyIn := busy, openIn := files, readIn := reads, draws := 1 } }

/-- `fresh` after V-INIT-1, as its end state says, and with an empty trace. -/
def ready : State := { fresh with initialized := true, dc := .high }

/-- `ready` after V-REN-1, as its end state says, and with an empty trace. -/
def rendered : State := { ready with renderOk := true, rprog := ⟨.slave, 3⟩ }

/-- Twelve whole reads, as the deterministic storage answers. -/
def wholeReads : List ReadReply := List.replicate 12 .whole

/-- A fact about the next state, false where there is none. -/
def onNext (o : Host.Outcome State Fault Refusal) (p : State → Bool) : Bool :=
  match o with
  | .next t => p t
  | .fault _ => false
  | .refused _ => false

/-- The trace, result code, STAT, LINES and RPROG of the next state. -/
def shows (o : Host.Outcome State Fault Refusal) (tr : List Event) (result : Byte) (stat lines rprog : Word) : Bool :=
  onNext o fun t =>
    decide (t.trace = tr) && decide (t.result = result) && decide (statWord t = stat) && decide (linesWord t = lines)
      && decide (rprogWord t = rprog)

def bothSel : Sel := ⟨true, true⟩

def mSel : Sel := ⟨true, false⟩

def sSel : Sel := ⟨false, true⟩

/-! Well-formedness smoke: every check refuses a term that breaks it. -/

theorem test_wf_refuses_long_block : (Instr.block (List.replicate 65536 0)).wf = false := by
  simp only [Instr.wf, List.length_replicate]; decide

theorem test_wf_accepts_longest_block : (Instr.block (List.replicate 65535 0)).wf = true := by
  simp only [Instr.wf, List.length_replicate]; decide

theorem test_config_tc_accepted : tc.valid = true := by decide

theorem test_config_refuses :
    ({ tc with w := 0 } : Config).valid = false ∧ ({ tc with w := 6 } : Config).valid = false
      ∧ ({ tc with h := 0 } : Config).valid = false ∧ ({ tc with h := 2048 } : Config).valid = false
      ∧ ({ tc with yieldRows := 0 } : Config).valid = false ∧ ({ tc with nPolls := 0 } : Config).valid = false
      ∧ ({ tc with resetSeq := [] } : Config).valid = false := by decide

theorem test_program_refuses_truncated_block :
    programOk [0x5000, 0x0003, 0x0F00] = false ∧ programOk [0x5000] = false ∧ programOk [0x5001, 0x0003] = true := by
  decide

/-! Decoding: words written out from R80 and R82, and the vectors of "Encoding and decode". -/

/-- Every row of opcode_table.json, its word written as bits OPC TGT RSV IMM8. -/
theorem test_decode_rows :
    decode [0b0000000001011010] = .op (.nop 0x5A) [] ∧ decode [0b0001010000000000] = .op .selM []
      ∧ decode [0b0001100000000000] = .op .selS [] ∧ decode [0b0001110000000000] = .op .selBoth []
      ∧ decode [0b0010010000000000] = .op .deselM [] ∧ decode [0b0010100000000000] = .op .deselS []
      ∧ decode [0b0010110000000000] = .op .deselBoth [] ∧ decode [0b0011000011111111] = .op (.cmd 0xFF) []
      ∧ decode [0b0100000000000001] = .op (.data 0x01) [] ∧ decode [0b0110000000000000] = .op .rstp []
      ∧ decode [0b0111000000000000] = .op .bwait [] ∧ decode [0b1000000000000000] = .op .init []
      ∧ decode [0b1001000000000000] = .op .render [] ∧ decode [0b1010000000000000] = .op .cycle []
      ∧ decode [0b1011000000000000] = .op .display [] ∧ decode [0b1100000000000100] = .op (.rdstat 0x04) [] := by
  decide

/-- R84, R85 and V-ENC-1: the low byte of an odd payload's last word is ignored. -/
theorem test_decode_block :
    decode [0x5000, 0x0003, 0x0F00, 0x28CD, 0xC003] = .op (.block [0x0F, 0x00, 0x28]) [0xC003]
      ∧ decode [0x5000, 0x0000, 0x1400] = .op (.block []) [0x1400] ∧ decode [0x5000, 0x0003, 0x0F00] = .truncated := by
  decide

/-- The ILLEGAL rows of the vector table. -/
theorem test_decode_illegal :
    ([0x0400, 0x0100, 0x1000, 0x1401, 0x2000, 0x3400, 0x3100, 0x5001, 0x7001, 0xC400, 0xD000, 0xE123, 0xFFFF, 0x0F00]
      : List Word).map decodeHead = List.replicate 14 .illegal := by decide

/-- The opcode table's word of BLOCK has 16 bits; its length word is then 0. -/
theorem test_decode_table_word :
    decodeTableWord 16 0x5000 = some (.block []) ∧ decodeTableWord 48 0xAB0000015000 = some (.block [0xAB])
      ∧ decodeTableWord 16 0xC003 = some (.rdstat 0x03) ∧ decodeTableWord 16 0xD000 = none := by decide

/-- The assembly table of the vectors, and R94's numbers and comments. -/
theorem test_assemble :
    assemble "xfer both, 0x50, 0xF7" = some [0x1C00, 0x3050, 0x5000, 0x0001, 0xF700, 0x2C00]
      ∧ assemble "block 1, 2, 3, 4 ; four bytes\nblock\nrdstat LINES" =
        some [0x5000, 0x0004, 0x0102, 0x0304, 0x5000, 0x0000, 0xC003]
      ∧ assemble "cmd 256" = none := by decide

/-! Framing. -/

/-- R100: NOP with any immediate moves `pc` and nothing else. -/
theorem test_nop : step { fresh with prog := [0x005A] } = .next { fresh with prog := [0x005A], pc := 1 } := by rfl

/-- V-SEL-3, the second operation; then V-SEL-2 and V-SEL-10's electrical level. -/
theorem test_sel :
    shows (exec .selS { fresh with csm := true }) [.line .csM .high, .line .csS .low] 0 0 0x000A 0 = true
      ∧ shows (exec .selBoth fresh) [.line .csM .low, .line .csS .low] 0 0 0x000B 0 = true
      ∧ shows (exec .selM (State.resetWith { tc with csActive := .high })) [.line .csM .high] 0 0 0x0009 0 = true := by
  decide

/-- V-SEL-8, V-SEL-7 and V-SEL-9. -/
theorem test_desel :
    shows (exec .deselM { fresh with csm := true, css := true }) [.line .csM .high] 0 0 0x000A 0 = true
      ∧ shows (exec .deselS fresh) [] 0 0 0x0008 0 = true
      ∧ shows (exec .deselBoth { fresh with csm := true, css := true }) [.line .csM .high, .line .csS .high] 0 0 0x0008 0
        = true := by decide

/-- V-BYT-1: no controller is selected, and DC is driven low. -/
theorem test_cmd : shows (exec (.cmd 0x12) { fresh with dc := .high }) [.xfer .low ⟨false, false⟩ 0x12] 0 0 0x0008 0 = true := by
  decide

/-- V-BYT-2, and V-BYT-6's STAT. -/
theorem test_data :
    shows (exec (.data 0x7F) { fresh with css := true }) [.xfer .high sSel 0x7F] 0 0 0x000E 0 = true
      ∧ onNext (exec (.data 0x00) rendered) (fun t => decide (statWord t = 0x0001)) = true := by decide

/-- V-BYT-3 and V-BYT-4. -/
theorem test_block :
    shows (exec (.block [1, 2, 3]) { fresh with csm := true, css := true })
        [.xfer .high bothSel 1, .xfer .high bothSel 2, .xfer .high bothSel 3] 0 0 0x000F 0 = true
      ∧ shows (exec (.block []) fresh) [] 0 0 0x000C 0 = true := by decide

/-! Initializer. -/

/-- V-RST-1 and V-RST-2. -/
theorem test_rstp :
    shows (exec .rstp { rendered with csm := true, dc := .low, rprog := ⟨.master, 0⟩ })
      [.line .rst .high, .delay (.resetStep 0), .line .rst .low, .delay (.resetStep 1), .line .rst .high,
        .delay (.resetStep 2)] 0 0x0000 0x0009 0 = true := by decide

/-- V-BW-2. -/
theorem test_bwait_released :
    shows (exec .bwait (withAnswers [.low, .low, .high] [] [] (State.resetWith { tc with nPolls := 3 })))
      [.sample .low, .keepalive, .delay .poll, .sample .low, .keepalive, .delay .poll, .sample .high, .keepalive,
        .delay .busySettle] 0x00 0 0x0038 0 = true := by decide

/-- V-BW-5: a timeout, with TOCNT saturated. -/
theorem test_bwait_timeout :
    onNext (exec .bwait (withAnswers [.low] [] [] { State.resetWith { tc with nPolls := 1 } with tocnt := 0xFFFF }))
      (fun t => decide (t.trace = [.sample .low, .keepalive, .delay .poll]) && decide (t.result = 0x01)
        && decide (t.tocnt = 0xFFFF) && decide (statWord t = 0x0010) && decide (linesWord t = 0x0028)) = true := by decide

/-- V-INIT-1. -/
theorem test_init :
    shows (exec .init fresh)
      [.line .rst .high, .delay (.resetStep 0), .line .rst .low, .delay (.resetStep 1), .line .rst .high,
        .delay (.resetStep 2), .line .csM .low, .line .csS .low, .xfer .low bothSel 0xA0, .xfer .high bothSel 0x11,
        .line .csM .high, .line .csS .high, .line .csM .low, .xfer .low mSel 0xA1, .line .csM .high, .line .csS .low,
        .xfer .low sSel 0xA2, .xfer .high sSel 0x22, .xfer .high sSel 0x33, .line .csS .high] 0 0x0001 0x000C 0 = true := by
  decide +kernel

/-- V-CYC-2: the refresh wait times out and the cycle goes on. -/
theorem test_cycle_timeout :
    shows (exec .cycle (withAnswers [.low, .high, .low, .low, .high] [] [] rendered))
      [.line .csM .low, .line .csS .low, .xfer .low bothSel 0x04, .line .csM .high, .line .csS .high,
        .sample .low, .keepalive, .delay .poll, .sample .high, .keepalive, .delay .busySettle, .delay .ponSettle,
        .line .csM .low, .line .csS .low, .xfer .low bothSel 0x12, .xfer .high bothSel 0x00, .line .csM .high,
        .line .csS .high, .sample .low, .keepalive, .delay .poll, .sample .low, .keepalive, .delay .poll,
        .line .csM .low, .line .csS .low, .xfer .low bothSel 0x02, .xfer .high bothSel 0x00, .line .csM .high,
        .line .csS .high, .sample .high, .keepalive, .delay .busySettle] 0x01 0x0009 0x003C 0x8003 = true := by decide +kernel

/-- V-CYC-4: the two refusals. -/
theorem test_cycle_refused :
    shows (exec .cycle fresh) [] 0x20 0 0x0008 0 = true ∧ shows (exec .cycle ready) [] 0x21 0x0001 0x000C 0 = true := by
  decide

/-! Renderer. -/

/-- The events of V-REN-1. -/
def renderTrace : List Event :=
  [.sopen (some 12), .line .csM .low, .xfer .low mSel 0x10,
    .sread 0 2 2, .xfer .high mSel 0x00, .xfer .high mSel 0x01, .sread 2 2 2,
    .sread 4 2 2, .xfer .high mSel 0x04, .xfer .high mSel 0x05, .sread 6 2 2, .keepalive,
    .sread 8 2 2, .xfer .high mSel 0x08, .xfer .high mSel 0x09, .sread 10 2 2,
    .line .csM .high, .delay .passSettle, .sseek 0, .line .csS .low, .xfer .low sSel 0x10,
    .sread 0 2 2, .sread 2 2 2, .xfer .high sSel 0x02, .xfer .high sSel 0x03,
    .sread 4 2 2, .sread 6 2 2, .xfer .high sSel 0x06, .xfer .high sSel 0x07, .keepalive,
    .sread 8 2 2, .sread 10 2 2, .xfer .high sSel 0x0A, .xfer .high sSel 0x0B, .line .csS .high, .sclose]

/-- V-REN-1. -/
theorem test_render : shows (exec .render (withAnswers [] [some fileF] wholeReads ready))
    renderTrace 0 0x0009 0x000C 0x8003 = true := by decide +kernel

/-- V-REN-2 and V-REN-3: a short read in each pass. -/
theorem test_render_short_read :
    shows (exec .render (withAnswers [] [some fileF] [.whole, .whole, .failed 1] ready))
        (renderTrace.take 7 ++ [Event.sread 4 2 1, .line .csM .high, .sclose]) 0x11 0x0001 0x000C 0x0001 = true
      ∧ shows (exec .render (withAnswers [] [some fileF] (List.replicate 11 ReadReply.whole ++ [ReadReply.interfered [9]]) ready))
        (renderTrace.take 31 ++ [Event.sread 10 2 1, .line .csS .high, .sclose]) 0x12 0x0001 0x000C 0x8002 = true := by
  decide +kernel

/-- V-DSP-2: the lazy init stays done, and no cycle runs. -/
theorem test_display_no_image :
    onNext (exec .display (withAnswers [] [some (fileF.take 11)] [] fresh))
      (fun t => decide (t.trace.drop 20 = [.sopen (some 11), .sclose]) && decide (t.trace.length = 22)
        && decide (t.result = 0x10) && decide (statWord t = 0x0001)) = true := by decide +kernel

/-- V-DSP-1's count of events and end state. -/
theorem test_display :
    onNext (exec .display (withAnswers [.high, .high, .high] [some fileF] wholeReads fresh))
      (fun t => decide (t.trace.length = 83) && decide ((t.trace.drop 20).take 36 = renderTrace)
        && decide (t.result = 0x00) && decide (statWord t = 0x0009) && decide (rprogWord t = 0x8003)) = true := by decide +kernel

/-! Status and illegal words. -/

/-- V-ST-1's LINES, and a reserved index. -/
theorem test_rdstat :
    onNext (exec (.rdstat 0x03) fresh) (fun t => decide (t.trace = [.hostread 0x0008]) && decide (t.rdata = 0x0008)) = true
      ∧ onNext (exec (.rdstat 0xFF) { fresh with rdata := 0x1234, result := 0x30 })
        (fun t => decide (t.trace = [.hostread 0x0000]) && decide (t.result = 0x30)) = true := by decide

/-- V-ST-4's first word: one word long, no event. -/
theorem test_illegal_word :
    onNext (step { fresh with prog := [0x5001, 0x0003, 0x0F00, 0x2800] })
      (fun t => decide (t.pc = 1) && decide (t.result = 0x30) && decide (t.trace = [])) = true := by decide

/-! The step. -/

/-- The row's word runs as the first instruction after reset. -/
theorem test_step_fetches_placed_word :
    step (State.reset.withFetchWord 16 0x1C00)
      = exec .selBoth (takeOp .selBoth (State.reset.withFetchWord 16 0x1C00)) := by rfl

/-! Witnesses: for each statement with hypotheses, a concrete state and operands that meet all of them together. -/

/-- `fresh` with a program supplied. -/
def loaded (p : List Word) : State := { fresh with prog := p }

/-- DecodeInvertsEncode, EncodedProgramsAreAccepted. -/
theorem witness_wf_instructions :
    ∀ i ∈ [Instr.nop 0xFF, .selM, .selS, .selBoth, .deselM, .deselS, .deselBoth, .cmd 0, .data 0, .block [], .block [1, 2, 3],
      .rstp, .bwait, .init, .render, .cycle, .display, .rdstat 0xFF], i.wf = true := by decide

/-- IllegalWordsAndTheirEffect: the two ends of `0x5001 .. 0xFFFF` that matter: a bad IMM8 and a bad OPC. -/
theorem witness_illegal_word :
    ∀ w ∈ [(0x5001 : Word), 0xFFFF], (loaded [w]).phase = .idle ∧ (loaded [w]).cfg.valid = true
      ∧ (loaded [w]).prog[(loaded [w]).pc]? = some w ∧ decodeHead w = .illegal := by
  intro w hw
  rcases List.mem_pair.1 hw with rfl | rfl <;> exact ⟨rfl, rfl, rfl, rfl⟩

/-- BlockPayloadPacking: the words at which the forms of R84 part, and a program that ends inside a BLOCK. -/
theorem witness_block_length :
    (0x5001 : Word) ≠ 0x5000#16 ∧ (0x4FFF : Word) ≠ 0x5000#16 ∧ (∀ i ∈ [Instr.init, .block [1]], i.wf = true)
      ∧ decode [0x5000, 0x0003, 0x0F00] = .truncated := by decide

/-- BlockPayloadPacking: no payload, one byte, an odd payload one word too short, an odd payload to encode. -/
theorem witness_payload_packing :
    (0 ≤ 65535 ∧ (0 + 1) / 2 ≤ ([] : List Word).length) ∧ (1 ≤ 65535 ∧ (1 + 1) / 2 ≤ ([0xAB00] : List Word).length)
      ∧ (3 ≤ 65535 ∧ ([0x0F00] : List Word).length < (3 + 1) / 2) ∧ ([0xAB] : List Byte).length % 2 = 1 := by decide

/-- BlockPayloadPacking: the longest payload. -/
theorem witness_longest_payload : (65535 + 1) / 2 ≤ (List.replicate 32768 (0 : Word)).length := by
  rw [List.length_replicate]

/-- StepRunsDecodedOperation: an operation of one word, and a BLOCK with an odd payload in the middle of a program. -/
theorem witness_step_runs :
    decode ((loaded [0x8000]).prog.drop (loaded [0x8000]).pc) = .op .init []
      ∧ decode ([0x8000, 0x5000, 0x0001, 0xAB00, 0x9000].drop 1) = .op (.block [0xAB]) [0x9000]
      ∧ (loaded []).phase = .idle ∧ (loaded []).cfg.valid = true := by decide

/-- BadConfigurationsAreRefused: both clauses, an idle block with an accepted and with a refused configuration. -/
theorem witness_configurations :
    fresh.phase = .idle ∧ fresh.cfg.valid = true ∧ (State.resetWith { tc with h := 2048 }).phase = .idle
      ∧ (State.resetWith { tc with h := 2048 }).cfg.valid = false := by decide

/-- StepAtTheProgramsEnd: the end, a truncated BLOCK at `pc`, a program refused when it is supplied. -/
theorem witness_programs_end :
    fresh.phase = .idle ∧ fresh.cfg.valid = true ∧ fresh.prog.length ≤ fresh.pc
      ∧ decode ((loaded [0x5000]).prog.drop (loaded [0x5000]).pc) = .truncated ∧ programOk [0x1400, 0x5000] = false := by
  decide

/-- NopOnlyAdvances: its last clause, at both ends of the immediate. -/
theorem witness_nop :
    ∀ imm ∈ [(0x00 : Byte), 0xFF],
      (loaded [0x0000#16 ||| imm.setWidth 16]).prog[0]? = some (0x0000#16 ||| imm.setWidth 16) := by decide

/-- BlockSendsItsPayloadInOrder: the shortest and the longest odd payload. -/
theorem witness_odd_payload :
    ([] : List Byte).length % 2 = 0 ∧ ([] : List Byte).length + 1 ≤ 65535
      ∧ (List.replicate 65534 (0 : Byte)).length % 2 = 0 ∧ (List.replicate 65534 (0 : Byte)).length + 1 ≤ 65535 := by
  simp only [List.length_replicate]; decide

/-- BroadcastDiffersFromSeparatePulses, TransfersOnTheWire. -/
theorem witness_wire : fresh.csm = false ∧ fresh.css = false ∧ fresh.cfg.bitOrder = .msbFirst := by decide

/-- The three kinds of script of a busy-wait with two polls: released at the first poll, at the last, and timed out. -/
theorem witness_wait_scripts :
    WaitScript tc [.high] .released ∧ WaitScript tc [.low, .high] .released ∧ WaitScript tc [.low, .low] .timedOut :=
  ⟨⟨0, .high, by decide⟩, ⟨1, .high, by decide⟩, by rfl⟩

/-- BusyWaitSamplesThePendingLevels and EveryBusyWaitFollowsItsRule: each script pending. -/
theorem witness_pending_levels :
    fresh.cfg.valid = true
      ∧ ∀ w ∈ [[Level.high], [Level.low, .high], [Level.low, .low]],
          (withAnswers (w ++ [Level.high]) [] [] fresh).env.busyIn = w ++ [Level.high] := by decide

/-- CycleFollowsItsRule, CycleIsNeverCutShort, CycleSamplesThePendingLevels: the refused and the accepted clauses. -/
theorem witness_cycle :
    fresh.initialized = false ∧ ready.initialized = true ∧ ready.renderOk = false ∧ rendered.initialized = true
      ∧ rendered.renderOk = true ∧ rendered.cfg.valid = true
      ∧ (withAnswers [.high, .low, .low, .low, .high] [] [] rendered).env.busyIn
        = [Level.high] ++ [Level.low, .low] ++ [Level.low, .high] ++ [] := by decide +kernel

/-- RenderWithoutAnImageTouchesNoBus: each clause, the size one byte short and one byte long. -/
theorem witness_no_image :
    fresh.initialized = false ∧ (withAnswers [] [none] [] ready).env.openIn = none :: []
      ∧ (withAnswers [] [some (fileF.take 11)] [] ready).env.openIn = some (fileF.take 11) :: []
      ∧ (fileF.take 11).length ≠ ready.cfg.fbSize ∧ (fileF ++ [(0 : Byte)]).length ≠ ready.cfg.fbSize := by decide +kernel

/-- RenderOfAValidFile, the statements on its streams and counts, and DisplayIsInitThenRenderThenCycle. -/
theorem witness_valid_file :
    let s := withAnswers ([Level.high] ++ [Level.low, .low] ++ [Level.low, .high] ++ []) [some fileF] wholeReads ready
    s.cfg.valid = true ∧ s.initialized = true ∧ s.env.openIn = some fileF :: [] ∧ fileF.length = s.cfg.fbSize
      ∧ s.env.readIn = List.replicate (4 * s.cfg.h) ReadReply.whole ++ []
      ∧ s.env.busyIn = [Level.high] ++ [Level.low, .low] ++ [Level.low, .high] ++ [] := by decide +kernel

/-- DisplayIsInitThenRenderThenCycle where INIT is due; witness_valid_file has the other case. -/
theorem witness_display_with_init :
    let s := withAnswers ([Level.high] ++ [Level.low, .low] ++ [Level.low, .high] ++ []) [some fileF] wholeReads fresh
    s.cfg.valid = true ∧ s.initialized = false ∧ s.env.openIn = some fileF :: []
      ∧ s.env.readIn = List.replicate (4 * s.cfg.h) ReadReply.whole ++ [] := by decide +kernel

/-- DisplayRunsNoCycleAfterAFailedRender: the render fails for want of a file and by a short read in either pass, from a block
that is initialised and from one that is not. -/
theorem witness_display_fails :
    ∀ s ∈ [fresh, ready], ∀ a ∈ [(none, []), (some fileF, [ReadReply.failed 1]),
        (some fileF, List.replicate 11 ReadReply.whole ++ [ReadReply.failed 1])],
      onNext (exec .display (withAnswers [] [a.1] a.2 s)) (fun t => !t.renderOk) = true := by decide +kernel

/-- ShortReadAbortsTheRender: the first and the last read of each pass, returning nothing and one byte too few. -/
theorem witness_short_read :
    ∀ k ∈ [0, 5, 6, 11], ∀ bad ∈ [ReadReply.failed 0, .failed 1, .interfered [9]],
      let s := withAnswers [] [some fileF] (List.replicate k ReadReply.whole ++ [bad]) ready
      s.cfg.valid = true ∧ s.initialized = true ∧ s.env.openIn = some fileF :: [] ∧ fileF.length = s.cfg.fbSize
        ∧ k < 4 * s.cfg.h ∧ s.env.readIn = List.replicate k ReadReply.whole ++ bad :: []
        ∧ (bad.bytes s.cfg.half (fileBytes fileF (k % (2 * s.cfg.h) * s.cfg.half) s.cfg.half)).length < s.cfg.half := by
  decide +kernel

/-- StorageReadsAnswerTheFile: each way of answering a read that the file's end cuts off. -/
theorem witness_open_file :
    ∀ r ∈ [ReadReply.whole, .failed 1, .interfered [9]],
      ({ withAnswers [] [] [r] ready with openFile := some (StoredFile.ofBytes fileF) } : State).env.readIn = r :: [] := by
  decide

/-- StatusRegisterFields: both ends of the reserved indices, and a reset line that resets high. -/
theorem witness_status_fields :
    5 ≤ (0x05 : Byte).toNat ∧ 5 ≤ (0xFF : Byte).toNat ∧ tc.rstReset = .high := by decide

/-- FramebufferGeometry: an accepted configuration, and the default parameters. -/
theorem witness_geometry :
    tc.valid = true ∧ Config.platform.valid = true ∧ Config.platform.w = 1200 ∧ Config.platform.h = 1600 := ⟨rfl, rfl, rfl, rfl⟩

/-- A loaded program meets the invariant: InvariantHoldsAtReset's last clause and the statements that start from `Inv`. -/
theorem witness_invariant :
    Inv (loaded [0x1C00, 0x5000, 0x0001, 0xAB00, 0xD000]) ∧ State.load [0x8000] fresh = .next (loaded [0x8000]) := by
  refine ⟨⟨?_, ?_, ?_, ?_, ?_, ?_, ?_, ?_, ?_, ?_, ?_⟩, rfl⟩ <;> decide

/-- StepKeepsTheInvariant and the other statements over every step: a step from such a state, and one from its end. -/
theorem witness_steps :
    (∃ t, step (loaded [0x1C00]) = .next t) ∧ step fresh = .next fresh := ⟨⟨_, rfl⟩, rfl⟩

/-- The statements over every operation: each one answers a next state, in every state. -/
theorem witness_operations (i : Instr) : ∃ t, exec i fresh = .next t := exec_next i fresh

/-- InitializedOnlyByInit: INIT sets it, RSTP clears it. -/
theorem witness_initialized :
    (fresh.initialized = false ∧ onNext (exec .init fresh) (fun t => t.initialized) = true)
      ∧ (ready.initialized = true ∧ onNext (exec .rstp ready) (fun t => !t.initialized) = true) := by decide

end Sys2Proof.Tests
end

section
/-! PROOFS. The framebuffer's geometry (spec/00_scope.md R7, R8). -/

namespace Sys2Proof.Machine

/-- With `W mod 4 = 0` a row of `W` pixels fills its `BPR` bytes, two pixels each (R7). -/
theorem width_eq_two_mul_bpr {c : Config} (h : c.valid = true) : c.w = 2 * c.bpr := by
  simp only [Config.valid, Bool.and_eq_true, decide_eq_true_eq] at h
  simp only [Config.bpr]
  omega

/-- `H` rows of `BPR` bytes are half as many bytes as the frame has pixels (R8). -/
theorem fbSize_eq_half_pixels {c : Config} (h : c.valid = true) : c.fbSize = c.w * c.h / 2 := by
  have hdvd : 2 ∣ c.w := ⟨c.bpr, width_eq_two_mul_bpr h⟩
  calc c.fbSize = c.h * (c.w / 2) := rfl
    _ = c.h * c.w / 2 := (Nat.mul_div_assoc c.h hdvd).symm
    _ = c.w * c.h / 2 := by rw [Nat.mul_comm]

/-- A row's pixels, at `BPP` bits each, are exactly its bytes' bits (R6, R8). -/
theorem row_bits_eq_bpr_bits {c : Config} (h : c.valid = true) : c.w * bitsPerPixel = 8 * c.bpr := by
  have hw := width_eq_two_mul_bpr h
  simp only [bitsPerPixel]
  omega

/-- Settles O38: an accepted width is a multiple of 4, so none of R7's divisions loses a pixel; the default values are
computed. -/
theorem framebufferGeometry : Obligations.FramebufferGeometry := by
  refine ⟨fun c h => ⟨fbSize_eq_half_pixels h, rfl, ?_, row_bits_eq_bpr_bits h⟩, fun c hw hh => ?_⟩
  · rw [Nat.two_mul]
    exact bpr_eq_two_half h
  · simp [Config.fbSize, Config.bpr, Config.half, hw, hh]

end Sys2Proof.Machine
end

section
/-! PROOFS. The status registers' fields (spec/10_state.md R42 to R48) and what reset leaves (R50, R230). -/

namespace Sys2Proof

/-! The bits of a field's value. A Boolean field is one bit, so two fields at different bits do not meet. -/

@[simp] theorem getLsbD_boolBit (b : Bool) (i : Nat) : (boolBit b).getLsbD i = (b && decide (i = 0)) := by
  cases b
  · simp [boolBit]
  · simp [boolBit, BitVec.getLsbD_one]

@[simp] theorem getElem_boolBit (b : Bool) (i : Nat) (hi : i < 16) : (boolBit b)[i] = (b && decide (i = 0)) := by
  rw [← BitVec.getLsbD_eq_getElem, getLsbD_boolBit]

/-- A Boolean put at bit `n` leaves every other bit clear. -/
theorem getLsbD_boolBit_shiftLeft_of_ne (b : Bool) {n i : Nat} (h : i ≠ n) : (boolBit b <<< n).getLsbD i = false := by
  rcases Nat.lt_or_gt_of_ne h with hlt | hgt
  · simp [hlt]
  · have hsub : i - n ≠ 0 := by omega
    simp [hsub]

/-- A level is the Boolean of its being high (R33, R34). -/
theorem Level.bit_eq_boolBit (l : Level) : l.bit = boolBit (decide (l = .high)) := by
  cases l <;> rfl

/-- A pass is the Boolean of its being the slave's (R41). -/
theorem Pass.bit_eq_boolBit (p : Pass) : p.bit = boolBit (decide (p = .slave)) := by
  cases p <;> rfl

namespace Machine

/-- The code of a power state takes two bits (R36). -/
theorem Power.getLsbD_code_of_two_le (p : Power) {i : Nat} (h : 2 ≤ i) : p.code.getLsbD i = false := by
  have hlt : p.code.toNat < 2 ^ i :=
    calc p.code.toNat < 2 ^ 2 := by cases p <;> decide
      _ ≤ 2 ^ i := Nat.pow_le_pow_right (by decide) h
  exact Nat.testBit_lt_two_pow hlt

theorem Power.getElem_code_of_two_le (p : Power) {i : Nat} (hi : i < 16) (h : 2 ≤ i) : p.code[i] = false := by
  rw [← BitVec.getLsbD_eq_getElem, p.getLsbD_code_of_two_le h]

/-! The five registers and the reserved indices. -/

@[simp] theorem statusValue_stat (s : State) : statusValue 0x00#8 s = statWord s := rfl
@[simp] theorem statusValue_result (s : State) : statusValue 0x01#8 s = resultWord s := rfl
@[simp] theorem statusValue_tocnt (s : State) : statusValue 0x02#8 s = tocntWord s := rfl
@[simp] theorem statusValue_lines (s : State) : statusValue 0x03#8 s = linesWord s := rfl
@[simp] theorem statusValue_rprog (s : State) : statusValue 0x04#8 s = rprogWord s := rfl

/-- The reserved indices (R48). -/
theorem statusValue_reserved {k : Byte} (hk : 5 ≤ k.toNat) (s : State) : statusValue k s = 0x0000#16 := by
  have hne : ∀ j : Byte, j.toNat < 5 → k ≠ j := by
    rintro j hj rfl
    omega
  simp [statusValue, hne]

/-- RDSTAT in full (R190). -/
theorem exec_rdstat_eq (k : Byte) (s : State) :
    exec (.rdstat k) s
      = .next { s with rdata := statusValue k s, trace := s.trace ++ [.hostread (statusValue k s)], phase := .idle } := rfl

/-- STAT, bit by bit (R43). -/
theorem statWord_fields (s : State) :
    (statWord s).getLsbD 0 = s.initialized
      ∧ (statWord s).extractLsb' 1 2 = s.power.code.setWidth 2
      ∧ (statWord s).getLsbD 3 = s.renderOk ∧ (statWord s).getLsbD 4 = s.tout
      ∧ (statWord s).extractLsb' 5 11 = 0#11 := by
  refine ⟨?_, ?_, ?_, ?_, ?_⟩
  · simp [statWord]
  · ext i hi
    obtain rfl | rfl : i = 0 ∨ i = 1 := by omega
    · simp [statWord]
    · simp [statWord]
  · simp [statWord, Power.getElem_code_of_two_le]
  · simp [statWord, Power.getElem_code_of_two_le]
  · ext i hi
    have hcode : (s.power.code <<< 1).getLsbD (5 + i) = false := by
      rw [BitVec.getLsbD_shiftLeft, s.power.getLsbD_code_of_two_le (by omega), Bool.and_false]
    simp (disch := omega) [statWord, hcode, getLsbD_boolBit_shiftLeft_of_ne, -BitVec.getLsbD_shiftLeft,
      -BitVec.getLsbD_eq_getElem]

/-- RESULT, bit by bit (R44). -/
theorem resultWord_fields (s : State) :
    (resultWord s).extractLsb' 0 8 = s.result ∧ (resultWord s).extractLsb' 8 8 = 0#8 := by
  constructor
  · ext i hi
    simp [resultWord, BitVec.getLsbD_eq_getElem hi, Nat.lt_trans hi]
  · ext i hi
    simp [resultWord]

/-- LINES as the six Booleans at its bits 0 to 5: BUSY's level counts only once it has been sampled (R46). -/
theorem linesWord_eq_boolBits (s : State) :
    linesWord s = boolBit s.busyValid <<< 5 ||| boolBit (s.busyValid && decide (s.busyLast = .high)) <<< 4
      ||| boolBit (decide (s.rst = .high)) <<< 3 ||| boolBit (decide (s.dc = .high)) <<< 2 ||| boolBit s.css <<< 1
      ||| boolBit s.csm := by
  have hbusy : (if s.busyValid then s.busyLast.bit else 0#16) = boolBit (s.busyValid && decide (s.busyLast = .high)) := by
    cases s.busyValid
    · rfl
    · exact s.busyLast.bit_eq_boolBit
  rw [linesWord, hbusy, s.rst.bit_eq_boolBit, s.dc.bit_eq_boolBit]

/-- LINES, bit by bit (R46). -/
theorem linesWord_fields (s : State) :
    (linesWord s).getLsbD 0 = s.csm ∧ (linesWord s).getLsbD 1 = s.css
      ∧ (linesWord s).getLsbD 2 = decide (s.dc = .high) ∧ (linesWord s).getLsbD 3 = decide (s.rst = .high)
      ∧ (linesWord s).getLsbD 4 = (s.busyValid && decide (s.busyLast = .high))
      ∧ (linesWord s).getLsbD 5 = s.busyValid ∧ (linesWord s).extractLsb' 6 10 = 0#10 := by
  rw [linesWord_eq_boolBits]
  refine ⟨by simp, by simp, by simp, by simp, by simp, by simp, ?_⟩
  ext i hi
  simp (disch := omega) [getLsbD_boolBit_shiftLeft_of_ne, -BitVec.getLsbD_shiftLeft, -BitVec.getLsbD_eq_getElem]

/-- RPROG, bit by bit (R47). -/
theorem rprogWord_fields (s : State) :
    (rprogWord s).getLsbD 15 = decide (s.rprog.pass = .slave)
      ∧ (rprogWord s).extractLsb' 0 11 = s.rprog.rows ∧ (rprogWord s).extractLsb' 11 4 = 0#4 := by
  rw [rprogWord, Pass.bit_eq_boolBit]
  refine ⟨by simp, BitVec.eq_of_getLsbD_eq fun i hi => ?_, BitVec.eq_of_getLsbD_eq fun i hi => ?_⟩
  · simp (disch := omega) [getLsbD_boolBit_shiftLeft_of_ne, hi, Nat.lt_trans hi, -BitVec.getLsbD_shiftLeft,
      -BitVec.getLsbD_eq_getElem]
  · simp (disch := omega) [getLsbD_boolBit_shiftLeft_of_ne, -BitVec.getLsbD_shiftLeft, -BitVec.getLsbD_eq_getElem]

/-! Reset values. -/

@[simp] theorem boolBit_false : boolBit false = 0#16 := rfl

/-- The status registers right after reset; LINES shows the reset line's level alone (R43 to R47, R50). -/
theorem statusValue_resetWith (c : Config) :
    statusValue 0x00#8 (State.resetWith c) = 0x0000#16 ∧ statusValue 0x01#8 (State.resetWith c) = 0x0000#16
      ∧ statusValue 0x02#8 (State.resetWith c) = 0x0000#16
      ∧ statusValue 0x03#8 (State.resetWith c) = c.rstReset.bit <<< 3
      ∧ statusValue 0x04#8 (State.resetWith c) = 0x0000#16 := by
  refine ⟨?_, rfl, rfl, ?_, ?_⟩
  · simp [statWord, State.resetWith, Power.code]
  · simp [linesWord, State.resetWith, Level.bit]
  · simp [rprogWord, State.resetWith, Pass.bit]

/-- Settles O36: each register's fields lie at their own bits, an index from 5 on names none of the five registers, and at
reset every field is 0 but the reset line's level. -/
theorem statusRegisterFields : Obligations.StatusRegisterFields := by
  refine ⟨fun s => ?_, fun c hc => ?_⟩
  · obtain ⟨hinit, hpower, hrender, htout, hstat⟩ := statWord_fields s
    obtain ⟨hresult, hresult0⟩ := resultWord_fields s
    obtain ⟨hcsm, hcss, hdc, hrst, hbusy, hvalid, hlines⟩ := linesWord_fields s
    obtain ⟨hpass, hrows, hrprog⟩ := rprogWord_fields s
    refine ⟨hinit, ?_, hrender, htout, hstat, hresult, hresult0, rfl, hcsm, hcss, hdc, hrst, hbusy, hvalid, hlines,
      hpass, hrows, hrprog, fun k hk => ⟨statusValue_reserved hk s, ?_⟩⟩
    · refine hpower.trans ?_
      cases s.power <;> rfl
    · rw [exec_rdstat_eq, statusValue_reserved hk]
  · obtain ⟨hstat, hresult, htocnt, hlines, hrprog⟩ := statusValue_resetWith c
    rw [hc] at hlines
    exact ⟨hstat, hresult, htocnt, hlines, hrprog⟩

/-! What reset leaves. -/

/-- The table of R50, for the reset-line level that the configuration gives. -/
def HasResetValues (c : Config) (t : State) : Prop :=
  t.pc = 0 ∧ t.trace = [] ∧ t.csm = false ∧ t.css = false ∧ t.dc = .low ∧ t.rst = c.rstReset ∧ t.busyLast = .low
    ∧ t.busyValid = false ∧ t.initialized = false ∧ t.power = .off ∧ t.renderOk = false ∧ t.tout = false
    ∧ t.tocnt = 0x0000#16 ∧ t.result = 0x00#8 ∧ t.rdata = 0x0000#16 ∧ t.rprog = ⟨.master, 0⟩ ∧ t.phase = .idle

/-- The reset state has the reset values whatever the program, the working state and the agents' answers are. -/
theorem resetWith_hasResetValues (c : Config) (p : List Word) (w : Work) (e : Env) :
    HasResetValues c { State.resetWith c with prog := p, work := w, env := e } :=
  ⟨rfl, rfl, rfl, rfl, rfl, rfl, rfl, rfl, rfl, rfl, rfl, rfl, rfl, rfl, rfl, rfl, rfl⟩

/-- Settles O37: block reset is the reset state of the block's own configuration, but for the program, the working state
and the agents' answers, none of which R50 names. -/
theorem blockResetGivesTheResetValues : Obligations.BlockResetGivesTheResetValues := by
  refine ⟨?_, rfl, rfl⟩
  rintro s t (rfl | ⟨rfl, rfl⟩)
  · exact resetWith_hasResetValues s.cfg _ _ _
  · exact resetWith_hasResetValues Config.platform _ _ _

end Machine

end Sys2Proof
end

section
/-! PROOFS. What an operation word says by its fields (spec/30_encoding.md R80 to R87), and the step that takes an illegal
word (spec/43_status.md R192). -/

namespace Sys2Proof

/-! The four checks of R86, and when they answer ILLEGAL or BLOCK. -/

theorem targetOf_eq_none_iff (t : BitVec 2) : targetOf t = none ↔ t = 0b00#2 := by
  revert t
  decide

theorem needNoTarget_one_eq_illegal_iff (w : Word) (i : Instr) :
    needNoTarget w (.one i) = .illegal ↔ tgtOf w ≠ 0b00#2 := by
  simp [needNoTarget]

theorem needNoTarget_one_ne_blockHead (w : Word) (i : Instr) : needNoTarget w (.one i) ≠ .blockHead := by
  unfold needNoTarget
  split <;> exact Head.noConfusion

theorem needTarget_eq_illegal_iff (w : Word) (f : Target → Instr) :
    needTarget w f = .illegal ↔ tgtOf w = 0b00#2 ∨ immOf w ≠ 0x00#8 := by
  rw [← targetOf_eq_none_iff, needTarget]
  cases targetOf (tgtOf w) with
  | none => simp
  | some t => simp

theorem needTarget_ne_blockHead (w : Word) (f : Target → Instr) : needTarget w f ≠ .blockHead := by
  unfold needTarget
  split
  · split <;> exact Head.noConfusion
  · exact Head.noConfusion

theorem needBare_eq_illegal_iff (w : Word) {h : Head} (hh : h ≠ .illegal) :
    needBare w h = .illegal ↔ tgtOf w ≠ 0b00#2 ∨ immOf w ≠ 0x00#8 := by
  simp only [needBare, ite_eq_right_iff, hh, imp_false, not_and_or]

theorem needBare_one_ne_blockHead (w : Word) (i : Instr) : needBare w (.one i) ≠ .blockHead := by
  unfold needBare
  split <;> exact Head.noConfusion

/-- Which check of R86 a word with RSV `00` meets, by its OPC (R82). -/
inductive HeadForm (w : Word) : Prop where
  /-- NOP, CMD, DATA, RDSTAT: the immediate is an operand -/
  | immediate (i : Instr) (opc : opcOf w = 0x0#4 ∨ opcOf w = 0x3#4 ∨ opcOf w = 0x4#4 ∨ opcOf w = 0xC#4)
      (head : decodeHead w = needNoTarget w (.one i))
  /-- SEL, DESEL -/
  | select (f : Target → Instr) (opc : opcOf w = 0x1#4 ∨ opcOf w = 0x2#4) (head : decodeHead w = needTarget w f)
  /-- BLOCK -/
  | block (opc : opcOf w = 0x5#4) (head : decodeHead w = needBare w .blockHead)
  /-- RSTP to DISPLAY: no operand -/
  | bare (i : Instr) (lo : 0x6 ≤ (opcOf w).toNat) (hi : (opcOf w).toNat ≤ 0xB) (head : decodeHead w = needBare w (.one i))
  /-- the unused codes -/
  | unused (lo : 0xD ≤ (opcOf w).toNat) (head : decodeHead w = .illegal)

/-- The values of OPC, apart as R82's table has them. -/
theorem opc_cases (o : BitVec 4) :
    (o = 0x0#4 ∨ o = 0x3#4 ∨ o = 0x4#4 ∨ o = 0xC#4) ∨ (o = 0x1#4 ∨ o = 0x2#4) ∨ o = 0x5#4
      ∨ (o = 0x6#4 ∨ o = 0x7#4 ∨ o = 0x8#4 ∨ o = 0x9#4 ∨ o = 0xA#4 ∨ o = 0xB#4) ∨ 0xD ≤ o.toNat := by
  revert o
  decide

theorem decodeHead_of_rsv_ne {w : Word} (h : rsvOf w ≠ 0b00#2) : decodeHead w = .illegal := by
  rw [decodeHead, if_pos h]

theorem headForm {w : Word} (hrsv : rsvOf w = 0b00#2) : HeadForm w := by
  rcases opc_cases (opcOf w) with h | h | h | h | h
  · rcases h with ho | ho | ho | ho <;> exact .immediate _ (by simp [ho]) (by simp [decodeHead, hrsv, ho]; rfl)
  · rcases h with ho | ho <;> exact .select _ (by simp [ho]) (by simp [decodeHead, hrsv, ho]; rfl)
  · exact .block h (by simp [decodeHead, hrsv, h])
  · rcases h with ho | ho | ho | ho | ho | ho <;>
      exact .bare _ (by simp [ho]) (by simp [ho]) (by simp [decodeHead, hrsv, ho]; rfl)
  · have hne : ∀ k : BitVec 4, k.toNat < 0xD → opcOf w ≠ k := by
      rintro k hk rfl
      omega
    exact .unused h (by simp [decodeHead, hrsv, hne])

/-- R87's causes, TGT's two ways of being wrong apart. -/
theorem decodeHead_eq_illegal_iff (w : Word) :
    decodeHead w = .illegal ↔
      rsvOf w ≠ 0b00#2 ∨ 0xD ≤ (opcOf w).toNat
        ∨ ((opcOf w = 0x1#4 ∨ opcOf w = 0x2#4) ∧ tgtOf w = 0b00#2)
        ∨ (¬ (opcOf w = 0x1#4 ∨ opcOf w = 0x2#4) ∧ tgtOf w ≠ 0b00#2)
        ∨ (¬ (opcOf w = 0x0#4 ∨ opcOf w = 0x3#4 ∨ opcOf w = 0x4#4 ∨ opcOf w = 0xC#4) ∧ immOf w ≠ 0x00#8) := by
  by_cases hrsv : rsvOf w = 0b00#2
  · cases headForm hrsv with
    | immediate i opc head =>
      rw [head, needNoTarget_one_eq_illegal_iff]
      rcases opc with h | h | h | h <;> simp [hrsv, h]
    | select f opc head =>
      rw [head, needTarget_eq_illegal_iff]
      rcases opc with h | h <;> simp [hrsv, h]
    | block opc head =>
      rw [head, needBare_eq_illegal_iff w Head.noConfusion]
      simp [hrsv, opc]
    | bare i lo hi head =>
      have hne : ∀ k : BitVec 4, k.toNat < 6 ∨ 0xB < k.toNat → opcOf w ≠ k := by
        rintro k hk rfl
        omega
      rw [head, needBare_eq_illegal_iff w Head.noConfusion]
      simp [hrsv, hne, show ¬ 0xD ≤ (opcOf w).toNat by omega]
    | unused lo head => exact ⟨fun _ => .inr (.inl lo), fun _ => head⟩
  · exact ⟨fun _ => .inl hrsv, fun _ => decodeHead_of_rsv_ne hrsv⟩

theorem decode_of_illegal {w : Word} (h : decodeHead w = .illegal) (ws : List Word) : decode (w :: ws) = .illegal w ws := by
  simp only [decode, h]

namespace Machine

theorem execIllegal_eq (s : State) :
    execIllegal s = .next { s with pc := s.pc + 1, result := 0x30#8, phase := .idle } := rfl

/-- The step that takes an illegal word (R192). -/
theorem step_illegal {s : State} {w : Word} {rest : List Word} (hidle : s.phase = .idle) (hvalid : s.cfg.valid = true)
    (hd : decode (s.prog.drop s.pc) = .illegal w rest) : step s = execIllegal s := by
  simp [step, State.fetch, hidle, hvalid, hd]

/-- Settles O4: by the check its OPC meets, a word with RSV `00` is illegal for R87's causes and no other; the word at `pc`
then decodes to itself, and the step is `execIllegal`. -/
theorem illegalWordsAndTheirEffect : Obligations.IllegalWordsAndTheirEffect := by
  refine ⟨decodeHead_eq_illegal_iff, fun s w hidle hvalid hw hill => ?_⟩
  obtain ⟨hpc, rfl⟩ := List.getElem?_eq_some_iff.1 hw
  have hd := decode_of_illegal hill (s.prog.drop (s.pc + 1))
  rw [← List.drop_eq_getElem_cons hpc] at hd
  rw [step_illegal hidle hvalid hd, execIllegal_eq, ← hidle]

end Machine

end Sys2Proof
end

section
/-! PROOFS. BLOCK's words and its payload's bytes (spec/30_encoding.md R84, R85), decoding of encoded operations, and where a
program is cut off. -/

namespace Sys2Proof

/-! What a BLOCK word is. -/

/-- The four fields of R80 make up the word. -/
theorem word_eq_of_fields {w v : Word} (hopc : opcOf w = opcOf v) (htgt : tgtOf w = tgtOf v) (hrsv : rsvOf w = rsvOf v)
    (himm : immOf w = immOf v) : w = v := by
  have fields : ∀ u : Word, u = opcOf u ++ (tgtOf u ++ (rsvOf u ++ immOf u)) := fun u => by
    simp only [opcOf, tgtOf, rsvOf, immOf, BitVec.extractLsb'_append_extractLsb'_eq_extractLsb']
    exact BitVec.extractLsb'_eq_self.symm
  rw [fields w, fields v, hopc, htgt, hrsv, himm]

/-- `0x5000` is the one legal BLOCK word (R84). -/
theorem decodeHead_eq_blockHead_iff (w : Word) : decodeHead w = .blockHead ↔ w = 0x5000#16 := by
  refine ⟨fun h => ?_, fun h => h ▸ rfl⟩
  by_cases hrsv : rsvOf w = 0b00#2
  · cases headForm hrsv with
    | immediate i opc head => exact absurd (head ▸ h) (needNoTarget_one_ne_blockHead w i)
    | select f opc head => exact absurd (head ▸ h) (needTarget_ne_blockHead w f)
    | block opc head =>
      have hfields : tgtOf w = 0b00#2 ∧ immOf w = 0x00#8 := by
        by_contra hne
        rw [head, needBare, if_neg hne] at h
        exact Head.noConfusion h
      obtain ⟨htgt, himm⟩ := hfields
      exact word_eq_of_fields opc htgt hrsv himm
    | bare i lo hi head => exact absurd (head ▸ h) (needBare_one_ne_blockHead w i)
    | unused lo head => exact Head.noConfusion (head.symm.trans h)
  · exact Head.noConfusion ((decodeHead_of_rsv_ne hrsv).symm.trans h)

/-- The second word of a BLOCK is its byte count (R84). -/
theorem toNat_byteCount {n : Nat} (h : n ≤ 65535) : (BitVec.ofNat 16 n).toNat = n := by
  rw [BitVec.toNat_ofNat, Nat.mod_eq_of_lt (by omega)]

/-! The decoder on each kind of first word. -/

theorem decode_of_one {w : Word} {i : Instr} (h : decodeHead w = .one i) (ws : List Word) : decode (w :: ws) = .op i ws := by
  simp only [decode, h]

theorem decode_block_some {len : Word} {ws rest : List Word} {bs : List Byte} (h : unpack ws len.toNat = some (bs, rest)) :
    decode (0x5000#16 :: len :: ws) = .op (.block bs) rest := by
  simp only [decode, (decodeHead_eq_blockHead_iff _).2 rfl, h]

theorem decode_block_none {len : Word} {ws : List Word} (h : unpack ws len.toNat = none) :
    decode (0x5000#16 :: len :: ws) = .truncated := by
  simp only [decode, (decodeHead_eq_blockHead_iff _).2 rfl, h]

/-- Every word but BLOCK's is taken alone (R84). -/
theorem decode_one_word {w : Word} (hw : w ≠ 0x5000#16) (ws : List Word) :
    (∃ i, decode (w :: ws) = .op i ws) ∨ decode (w :: ws) = .illegal w ws := by
  cases h : decodeHead w with
  | one i => exact .inl ⟨i, decode_of_one h ws⟩
  | blockHead => exact absurd ((decodeHead_eq_blockHead_iff w).1 h) hw
  | illegal => exact .inr (decode_of_illegal h ws)

/-! Unpacking and packing. -/

/-- Payload byte `i` stands in word `i / 2`, the even ones in the high byte (R85). -/
theorem unpack_getElem? (ws : List Word) (n : Nat) (bs : List Byte) (rest : List Word) (h : unpack ws n = some (bs, rest))
    {i : Nat} (hi : i < n) : bs[i]? = (ws[i / 2]?).map (if i % 2 = 0 then hiByte else loByte) := by
  induction ws, n using unpack.induct generalizing bs rest i with
  | case1 ws => omega
  | case2 n => simp [unpack] at h
  | case3 w ws =>
    simp only [unpack, Option.some.injEq, Prod.mk.injEq] at h
    obtain rfl : i = 0 := by omega
    simp [← h.1]
  | case4 w ws n bs' rest' h' ih =>
    simp only [unpack, h', Option.some.injEq, Prod.mk.injEq] at h
    rw [← h.1]
    match i with
    | 0 => simp
    | 1 => simp
    | i + 2 => simpa using ih bs' rest' h' (Nat.lt_of_add_lt_add_right hi)
  | case5 w ws n h' ih => simp [unpack, h'] at h

/-- Unpacking succeeds where the words are enough (R84). -/
theorem unpack_of_le {ws : List Word} {n : Nat} (h : (n + 1) / 2 ≤ ws.length) :
    ∃ bs, unpack ws n = some (bs, ws.drop ((n + 1) / 2)) := by
  cases hu : unpack ws n with
  | none =>
    have := unpack_none ws n hu
    omega
  | some p =>
    obtain ⟨-, hrest, -⟩ := unpack_some ws n p.1 p.2 hu
    exact ⟨p.1, by rw [← hrest]⟩

/-- Unpacking fails where the words are too few (R84). -/
theorem unpack_of_lt {ws : List Word} {n : Nat} (h : ws.length < (n + 1) / 2) : unpack ws n = none := by
  cases hu : unpack ws n with
  | none => rfl
  | some p =>
    obtain ⟨-, -, hle⟩ := unpack_some ws n p.1 p.2 hu
    omega

@[simp] theorem hiByte_append (b c : Byte) : hiByte (b ++ c) = b := BitVec.extractLsb'_append_eq_left

@[simp] theorem loByte_append (b c : Byte) : loByte (b ++ c) = c := BitVec.extractLsb'_append_eq_right

/-- Unpacking gives packed bytes back and leaves what followed (R85). -/
theorem unpack_pack (bs : List Byte) (rest : List Word) : unpack (pack bs ++ rest) bs.length = some (bs, rest) := by
  induction bs using pack.induct with
  | case1 => simp [pack, unpack]
  | case2 b => simp [pack, unpack]
  | case3 b c bs ih => simp [pack, unpack, ih]

/-- The last word of an odd payload is its last byte and `0x00` (R85). -/
theorem pack_odd (bs : List Byte) (h : bs.length % 2 = 1) : ∃ (ws : List Word) (b : Byte), pack bs = ws ++ [b ++ 0x00#8] := by
  induction bs using pack.induct with
  | case1 => simp at h
  | case2 b => exact ⟨[], b, rfl⟩
  | case3 b c bs ih =>
    obtain ⟨ws, d, hws⟩ := ih (by simp at h; omega)
    exact ⟨(b ++ c) :: ws, d, by rw [pack, hws, List.cons_append]⟩

/-! Encoded operations. -/

/-- The shape of every operation's words, from its lemma per constructor. -/
theorem encodeShape : ∀ i : Instr, Laws.EncodeShape.Statement i
  | .nop imm => Laws.EncodeShape.nop imm
  | .selM => Laws.EncodeShape.selM
  | .selS => Laws.EncodeShape.selS
  | .selBoth => Laws.EncodeShape.selBoth
  | .deselM => Laws.EncodeShape.deselM
  | .deselS => Laws.EncodeShape.deselS
  | .deselBoth => Laws.EncodeShape.deselBoth
  | .cmd c => Laws.EncodeShape.cmd c
  | .data d => Laws.EncodeShape.data d
  | .block p => Laws.EncodeShape.block p
  | .rstp => Laws.EncodeShape.rstp
  | .bwait => Laws.EncodeShape.bwait
  | .init => Laws.EncodeShape.init
  | .render => Laws.EncodeShape.render
  | .cycle => Laws.EncodeShape.cycle
  | .display => Laws.EncodeShape.display
  | .rdstat k => Laws.EncodeShape.rdstat k

/-- An operation of one word decodes by that word alone. -/
theorem decode_encode_one (i : Instr) (rest : List Word) (h1 : i.words = 1) : decode (encode i ++ rest) = .op i rest := by
  obtain ⟨hlen, hhead⟩ := encodeShape i
  obtain ⟨w, hw⟩ := List.length_eq_one_iff.1 (hlen.trans h1)
  rw [hw, if_pos h1] at hhead
  rw [hw]
  exact decode_of_one (Option.some.inj hhead) rest

/-- A BLOCK of at most 65535 bytes decodes to itself (R84, R85). -/
theorem decode_encode_block (p : List Byte) (rest : List Word) (h : p.length ≤ 65535) :
    decode (encode (.block p) ++ rest) = .op (.block p) rest :=
  decode_block_some (by rw [toNat_byteCount h]; exact unpack_pack p rest)

/-- Decoding a well-formed operation's words gives it back, whatever follows. -/
theorem decode_encode (i : Instr) (rest : List Word) (h : i.wf = true) : decode (encode i ++ rest) = .op i rest := by
  cases i with
  | block p => exact decode_encode_block p rest (of_decide_eq_true h)
  | _ => exact decode_encode_one _ rest rfl

/-- After well-formed operations the program is as well-formed as the words that follow them. -/
theorem programOk_encodeAll_append (is : List Instr) (ws : List Word) (h : ∀ i ∈ is, i.wf = true) :
    programOk (encodeAll is ++ ws) = programOk ws := by
  induction is with
  | nil => rfl
  | cons i is ih =>
    obtain ⟨hi, his⟩ := List.forall_mem_cons.1 h
    rw [encodeAll, List.append_assoc, programOk_op _ i _ (decode_encode i _ hi), ih his]

namespace Machine

/-- Settles O5: unpacking succeeds exactly where the words are enough and reads the bytes where R85 has them; `0x5000` is the one
word that is not taken alone; operations before a cut-off BLOCK do not mend the program. -/
theorem blockPayloadPacking : Obligations.BlockPayloadPacking := by
  refine ⟨fun n ws hn hle => ?_, fun n ws hn hlt => ?_, rfl, fun w ws hw => decode_one_word hw ws, fun is ws his hws => ?_,
    fun bs hodd => ?_, fun bs s => by rw [busBlock_eq]; rfl⟩
  · obtain ⟨bs, hu⟩ := unpack_of_le hle
    obtain ⟨hlen, -, -⟩ := unpack_some ws n bs _ hu
    exact ⟨bs, decode_block_some (by rw [toNat_byteCount hn, hu]), hlen, fun i hi => unpack_getElem? ws n bs _ hu hi⟩
  · exact decode_block_none (by rw [toNat_byteCount hn, unpack_of_lt hlt])
  · rw [programOk_encodeAll_append is ws his, programOk_truncated ws hws]
  · obtain ⟨ws, b, hws⟩ := pack_odd bs hodd
    simp [encode, hws, List.getLast?_cons]

end Machine

end Sys2Proof
end

section
/-! PROOFS. A byte on the panel's lines (spec/30_encoding.md R90). -/

namespace Sys2Proof.Machine

/-- Bit `7 - i` of the byte is the `i`-th on the line (R90). -/
theorem wireBits_msbFirst_getElem? (b : Byte) {i : Nat} (hi : i < 8) :
    (wireBits .msbFirst b)[i]? = some (if b.getLsbD (7 - i) then Level.high else Level.low) := by
  have order : ∀ j, j < 8 → [7, 6, 5, 4, 3, 2, 1, 0][j]? = some (7 - j) := by decide
  rw [wireBits, List.getElem?_map, order i hi]
  rfl

/-- A transfer from the block's current selects, on the lines, where the most significant bit goes first (R90). -/
theorem wireByte_xfer (dc : Level) (b : Byte) (s : State) (hmsb : s.cfg.bitOrder = .msbFirst) :
    ∃ x, wireByte s.cfg (.xfer dc s.sel b) = some x ∧ x.dc = dc
      ∧ x.csM = (if s.csm then s.cfg.csActive else s.cfg.csActive.flip)
      ∧ x.csS = (if s.css then s.cfg.csActive else s.cfg.csActive.flip)
      ∧ x.bits.length = 8 ∧ ∀ i, i < 8 → x.bits[i]? = some (if b.getLsbD (7 - i) then Level.high else Level.low) := by
  refine ⟨_, rfl, rfl, rfl, rfl, ?_, fun i hi => ?_⟩
  · rw [hmsb]
    rfl
  · rw [hmsb]
    exact wireBits_msbFirst_getElem? b hi

/-- Settles O18: a command and a data byte are one transfer each, at its own discriminator level, and both go onto the lines
in the same way. -/
theorem transfersOnTheWire : Obligations.TransfersOnTheWire := by
  intro b s hmsb
  refine ⟨?_, ?_, rfl, rfl, rfl⟩
  · obtain ⟨x, hx⟩ := wireByte_xfer s.cfg.dcCmd b s hmsb
    exact ⟨_, x, busCmd_trace s b, rfl, hx⟩
  · obtain ⟨x, hx⟩ := wireByte_xfer s.cfg.dcData b s hmsb
    exact ⟨_, x, busData_trace s b, rfl, hx⟩

end Sys2Proof.Machine
end

section
/-! PROOFS. The PanelBus operations NOP, SEL, DESEL, CMD, DATA and BLOCK (spec/40_panelbus.md). -/

namespace Sys2Proof

/-! Words and payloads. -/

/-- An operation word as its high byte and an immediate put into it (R80, R82). -/
theorem or_setWidth_eq_append (hi imm : Byte) : (hi ++ 0x00#8) ||| imm.setWidth 16 = hi ++ imm := by
  have himm : imm.setWidth 16 = 0x00#8 ++ imm := BitVec.setWidth_eq_append (by decide)
  rw [himm, BitVec.or_append, BitVec.or_zero, BitVec.zero_or]

/-- The last byte of an odd payload is the high byte of its word, whatever the low byte is (R85). -/
theorem unpack_pack_append_odd (p : List Byte) (b low : Byte) (rest : List Word) (heven : p.length % 2 = 0) :
    unpack (pack p ++ (b ++ low) :: rest) (p.length + 1) = some (p ++ [b], rest) := by
  induction p using pack.induct with
  | case1 => simp [pack, unpack]
  | case2 c => exact absurd heven (by simp)
  | case3 c d p ih =>
    have hrest := ih (by simp only [List.length_cons] at heven; omega)
    simp [pack, unpack, hrest]

namespace Machine

/-! What each operation does, in full. -/

/-- The step that takes an operation (R30, R51). -/
theorem step_op {s : State} {i : Instr} {rest : List Word} (hidle : s.phase = .idle) (hvalid : s.cfg.valid = true)
    (hd : decode (s.prog.drop s.pc) = .op i rest) : step s = exec i (takeOp i s) := by
  simp [step, State.fetch, hidle, hvalid, hd]

/-- The step that takes an operation of one word, where that word stands at `pc`. -/
theorem step_encode_one {s : State} {i : Instr} {w : Word} (hidle : s.phase = .idle) (hvalid : s.cfg.valid = true)
    (hw : s.prog[s.pc]? = some w) (hi : encode i = [w]) (h1 : i.words = 1) : step s = exec i (takeOp i s) := by
  obtain ⟨hpc, rfl⟩ := List.getElem?_eq_some_iff.1 hw
  have hd := decode_encode_one i (s.prog.drop (s.pc + 1)) h1
  rw [hi, List.singleton_append, ← List.drop_eq_getElem_cons hpc] at hd
  exact step_op hidle hvalid hd

theorem exec_nop_eq (imm : Byte) (s : State) : exec (.nop imm) s = .next { s with phase := .idle } := rfl

/-- SEL of any target in full (R102, R103). -/
theorem exec_selInstr_eq (t : Target) (s : State) :
    exec (selInstr t) s
      = .next { s with csm := t.hasM, css := t.hasS, result := 0x00#8, phase := .idle
                       trace := s.trace ++ selEvents s.cfg s.csm s.css t } := by
  have hexec : exec (selInstr t) s = endOp (setResult .ok (busSel t s)) := by cases t <;> rfl
  rw [hexec, busSel_eq]
  rfl

/-- DESEL of any target in full (R105, R106). -/
theorem exec_deselInstr_eq (t : Target) (s : State) :
    exec (deselInstr t) s
      = .next { s with csm := s.csm && !t.hasM, css := s.css && !t.hasS, result := 0x00#8, phase := .idle
                       trace := s.trace ++ deselEvents s.cfg s.csm s.css t } := by
  have hexec : exec (deselInstr t) s = endOp (setResult .ok (busDesel t s)) := by cases t <;> rfl
  rw [hexec, busDesel_eq]
  rfl

/-- The state after a raw transfer that emits `evs` and leaves the discriminator at `dc` (R111). -/
def rawTransfer (dc : Level) (evs : List Event) (s : State) : State :=
  { s with dc := dc, renderOk := false, result := 0x00#8, phase := .idle, trace := s.trace ++ evs }

/-- CMD in full (R110, R112). -/
theorem exec_cmd_eq (c : Byte) (s : State) :
    exec (.cmd c) s = .next (rawTransfer s.cfg.dcCmd [.xfer s.cfg.dcCmd s.sel c] s) := rfl

/-- DATA in full (R113, R114). -/
theorem exec_data_eq (d : Byte) (s : State) :
    exec (.data d) s = .next (rawTransfer s.cfg.dcData [.xfer s.cfg.dcData s.sel d] s) := rfl

/-- BLOCK in full (R115, R116). -/
theorem exec_block_eq (p : List Byte) (s : State) :
    exec (.block p) s = .next (rawTransfer s.cfg.dcData (p.map fun b => .xfer s.cfg.dcData s.sel b) s) := by
  show endOp (afterRaw (busBlock p s)) = _
  rw [busBlock_eq]
  rfl

theorem execAll_cons_of_next {i : Instr} {s t : State} (h : exec i s = .next t) (is : List Instr) :
    execAll (i :: is) s = execAll is t := by
  simp only [execAll, h]

/-- DATA operations in a row, at least one, are one BLOCK of their bytes (R115). -/
theorem execAll_data_eq_exec_block (b : Byte) (p : List Byte) (s : State) :
    execAll ((b :: p).map .data) s = exec (.block (b :: p)) s := by
  induction p generalizing b s with
  | nil => rfl
  | cons c p ih =>
    rw [List.map_cons, execAll_cons_of_next (exec_data_eq b s), ih, exec_block_eq, exec_block_eq]
    simp [rawTransfer, State.sel]

/-! What the controllers receive. -/

theorem newEvents_rawTransfer (dc : Level) (evs : List Event) (s : State) : newEvents s (rawTransfer dc evs s) = evs :=
  List.drop_left

/-- One transfer reaches a controller exactly if its select is asserted (R107, R117). -/
theorem receivedBy_singleton_xfer (h : Half) (dc : Level) (sel : Sel) (b : Byte) :
    receivedBy h [.xfer dc sel b] = if sel.has h then [b] else [] :=
  receivedBy_xfers h dc sel [b]

/-! The statements. -/

/-- Settles O14: BLOCK is `busBlock` in full, one DATA after another extends the same events, and the word with an odd
payload's last byte is read by its high byte alone. -/
theorem blockSendsItsPayloadInOrder : Obligations.BlockSendsItsPayloadInOrder := by
  refine ⟨fun p s => ⟨exec_block_eq p s, fun hp => ?_, rfl, length_pack p⟩, fun p b low rest heven hlen => ?_⟩
  · obtain ⟨b, bs, rfl⟩ := List.exists_cons_of_ne_nil hp
    exact execAll_data_eq_exec_block b bs s
  · exact decode_block_some (by rw [toNat_byteCount hlen, unpack_pack_append_odd p b low rest heven])

/-- Settles O9: NOP's word is its immediate alone, so the step takes one word and ends the operation at once. -/
theorem nopOnlyAdvances : Obligations.NopOnlyAdvances := by
  refine fun imm s => ⟨exec_nop_eq imm s, fun hidle hvalid hw => ?_⟩
  have hword : encode (.nop imm) = [0x0000#16 ||| imm.setWidth 16] :=
    congrArg (fun w => [w]) (or_setWidth_eq_append 0x00#8 imm).symm
  rw [step_encode_one hidle hvalid hw hword rfl, exec_nop_eq, ← hidle]
  rfl

/-- Settles O10: the three forms are SEL of the three targets, and `busSel` makes the asserted set the target. -/
theorem selMakesTheAssertedSetExact : Obligations.SelMakesTheAssertedSetExact := by
  intro i t w hmem
  obtain ⟨rfl, hword⟩ : i = selInstr t ∧ encode i = [w] := by
    simp only [List.mem_cons, Prod.mk.injEq, List.not_mem_nil, or_false] at hmem
    obtain ⟨rfl, rfl, rfl⟩ | ⟨rfl, rfl, rfl⟩ | ⟨rfl, rfl, rfl⟩ := hmem <;> exact ⟨rfl, rfl⟩
  refine ⟨hword, fun s => ?_⟩
  rw [exec_selInstr_eq]
  simp [selEvents]

/-- Settles O11: the three forms are DESEL of the three targets, and `busDesel` releases the target's lines alone. -/
theorem deselReleasesOnlyItsTarget : Obligations.DeselReleasesOnlyItsTarget := by
  intro i t w hmem
  obtain ⟨rfl, hword⟩ : i = deselInstr t ∧ encode i = [w] := by
    simp only [List.mem_cons, Prod.mk.injEq, List.not_mem_nil, or_false] at hmem
    obtain ⟨rfl, rfl, rfl⟩ | ⟨rfl, rfl, rfl⟩ | ⟨rfl, rfl, rfl⟩ := hmem <;> exact ⟨rfl, rfl⟩
  refine ⟨hword, fun s => ?_⟩
  rw [exec_deselInstr_eq]
  simp [deselEvents]

/-- Settles O12: CMD is `busCmd` and the bookkeeping of a raw transfer. -/
theorem cmdSendsOneCommandByte : Obligations.CmdSendsOneCommandByte := fun c s =>
  ⟨congrArg (fun w => [w]) (or_setWidth_eq_append 0x30#8 c).symm, exec_cmd_eq c s⟩

/-- Settles O13: DATA is `busData` and the bookkeeping of a raw transfer. -/
theorem dataSendsOneDataByte : Obligations.DataSendsOneDataByte := fun d s =>
  ⟨congrArg (fun w => [w]) (or_setWidth_eq_append 0x40#8 d).symm, exec_data_eq d s⟩

/-- Settles O15: each of the three operations is one raw transfer from the block's current selects. -/
theorem bytesReachTheSelectedControllers : Obligations.BytesReachTheSelectedControllers := by
  intro b s i hi
  obtain ⟨dc, hexec⟩ : ∃ dc, exec i s = .next (rawTransfer dc [.xfer dc s.sel b] s) := by
    simp only [List.mem_cons, List.not_mem_nil, or_false] at hi
    obtain rfl | rfl | rfl := hi
    · exact ⟨_, exec_cmd_eq b s⟩
    · exact ⟨_, exec_data_eq b s⟩
    · exact ⟨_, exec_block_eq [b] s⟩
  refine ⟨_, hexec, ?_⟩
  rw [newEvents_rawTransfer, receivedBy_singleton_xfer, receivedBy_singleton_xfer]
  exact ⟨rfl, rfl, rfl⟩

end Machine

end Sys2Proof
end

section
/-! PROOFS. The PanelInitializer operations RSTP, BWAIT, INIT and CYCLE (spec/41_initializer.md). -/

namespace Sys2Proof.Machine

/-! The closed forms of Laws/, in the spelling of the statements. -/

/-- The reset sequence's events, step by step (R130). -/
theorem resetEventsFrom_eq_flatMap (i : Nat) (seq : List ResetStep) :
    resetEventsFrom i seq = (List.range seq.length).flatMap (fun j =>
      [.line .rst ((seq.map ResetStep.level).getD j .low), .delay (.resetStep (i + j))]) := by
  induction seq generalizing i with
  | nil => rfl
  | cons st rest ih =>
    rw [resetEventsFrom, ih, List.length_cons, List.range_succ_eq_map, List.flatMap_cons, List.flatMap_map]
    simp [Nat.add_assoc, Nat.add_comm 1]

theorem dcAfter_eq_ite (c : Config) (ps : List Byte) : dcAfter c ps = if ps = [] then c.dcCmd else c.dcData := by
  cases ps <;> rfl

theorem waitResult_code (b : Bool) : (waitResult b).code = if b then 0x01#8 else 0x00#8 := by
  cases b <;> rfl

/-- A busy-wait of an accepted configuration samples at least once (R133). -/
theorem WaitScript.ne_nil {c : Config} {levels : List Level} {o : Wait} (h : WaitScript c levels o)
    (hc : c.valid = true) : levels ≠ [] :=
  List.length_pos_iff.1 (h.length_bounds (Config.one_le_nPolls hc)).1

/-- The last level that a wait of an accepted configuration samples does not depend on what was sampled before it (R34). -/
theorem WaitScript.getLast?_getD {c : Config} {levels : List Level} {o : Wait} (h : WaitScript c levels o)
    (hc : c.valid = true) (a b : Level) : levels.getLast?.getD a = levels.getLast?.getD b := by
  rw [List.getLast?_eq_getLast_of_ne_nil (h.ne_nil hc)]
  rfl

/-- The timed-out waits are counted up to the counter's greatest value (R38). -/
theorem countTimeouts_eq (n : BitVec 16) (os : List Wait) :
    countTimeouts n os = BitVec.ofNat 16 (min (n.toNat + os.count .timedOut) 0xFFFF) := by
  induction os generalizing n with
  | nil =>
    have hmin : min n.toNat 0xFFFF = n.toNat := by omega
    simp [countTimeouts, hmin]
  | cons o os ih =>
    rw [countTimeouts, ih]
    cases o with
    | released => simp
    | timedOut =>
      have hsucc : (saturatingSucc n).toNat = min (n.toNat + 1) 0xFFFF := by
        simp only [saturatingSucc, BitVec.toNat_ofNat]
        omega
      rw [if_pos rfl, hsucc, List.count_cons_self]
      congr 1
      omega

/-! What each operation does, in full. -/

/-- RSTP in full (R131). -/
theorem exec_rstp_eq (s : State) :
    exec .rstp s
      = .next { s with rst := ((s.cfg.resetSeq.getLast?).map ResetStep.level).getD s.rst
                       initialized := false, renderOk := false, power := .off, result := 0x00#8, phase := .idle
                       trace := s.trace ++ resetEvents s.cfg } := by
  show endOp (setResult .ok (clearPanelState (resetSequence s))) = _
  rw [resetSequence_eq]
  rfl

/-- BWAIT in full, whatever the panel answers (R134). -/
theorem exec_bwait_spec (s : State) :
    ∃ levels o env', WaitScript s.cfg levels o
      ∧ exec .bwait s = .next { afterPolls levels o env' s with
          result := if o = .timedOut then 0x01#8 else 0x00#8, phase := .idle } := by
  obtain ⟨levels, o, env', hscript, hwait⟩ := busyWait_spec s
  refine ⟨levels, o, env', hscript, ?_⟩
  show endOp (setResult (waitResult ((busyWait s).1 = .timedOut)) (busyWait s).2) = _
  rw [hwait]
  simp [endOp, setResult, waitResult_code]

theorem exec_init_eq (s : State) : exec .init s = endWork (setResult .ok (initBody s)) := rfl

/-- CYCLE before INIT is refused before any event (R139, R203). -/
theorem exec_cycle_notInitialized {s : State} (h : s.initialized = false) :
    exec .cycle s = endWork (setResult .notInitialized s) := by
  simp [exec, execCycle, cycleChecked, h, raise, Ran.state]

/-- CYCLE without a valid render is refused before any event (R139, R203). -/
theorem exec_cycle_noValidRender {s : State} (h : s.initialized = true) (hr : s.renderOk = false) :
    exec .cycle s = endWork (setResult .noValidRender s) := by
  simp [exec, execCycle, cycleChecked, h, hr, raise, Ran.state]

/-- An accepted CYCLE is its body (R139). -/
theorem exec_cycle_accepted {s : State} (h : s.initialized = true) (hr : s.renderOk = true) :
    exec .cycle s = endWork (cycleBody s) := by
  simp [exec, execCycle, cycleChecked, h, hr, Ran.state]

/-- A busy-wait stays in the power state it starts in (R133, R140). -/
theorem busyWait_power (s : State) : (busyWait s).2.power = s.power := by
  obtain ⟨levels, o, env', -, hwait⟩ := busyWait_spec s
  rw [hwait]
  rfl

theorem powerCommand_power (ph : CyclePhase) (s : State) :
    (powerCommand ph s).power = (cycleCommand s.cfg ph).2.2 := rfl

/-! The statements. -/

/-- Settles O19: RSTP is the reset sequence and the cleared bookkeeping, and the sequence's events are those of its steps in
order. -/
theorem rstpPulsesTheResetLine : Obligations.RstpPulsesTheResetLine := by
  refine ⟨rfl, fun s => ?_⟩
  rw [exec_rstp_eq, resetEvents, resetEventsFrom_eq_flatMap]
  simp only [Nat.zero_add]

/-- Settles O20: whatever the panel answers, the polls follow some script, and with N_POLLS at least 1 a script is not
empty, so a sample has been taken. -/
theorem everyBusyWaitFollowsItsRule : Obligations.EveryBusyWaitFollowsItsRule := by
  refine ⟨rfl, fun s hvalid => ?_⟩
  obtain ⟨levels, o, env', hscript, hexec⟩ := exec_bwait_spec s
  obtain ⟨hmin, hmax⟩ := hscript.length_bounds (Config.one_le_nPolls hvalid)
  refine ⟨levels, o, _, hscript, hmin, hmax, hexec, ?_⟩
  have hsampled : (s.busyValid || !levels.isEmpty) = true := by simp [hscript.ne_nil hvalid]
  simp only [afterPolls, hsampled, saturatingSucc]

/-- Settles O22: INIT is `initBody` in full, whose events hold no sample. -/
theorem initSendsThePulseAndTheTable : Obligations.InitSendsThePulseAndTheTable := by
  refine ⟨rfl, fun s => ⟨_, exec_init_eq s, ?_, ?_, ?_⟩⟩
  · simp only [initBody_eq, dcAfter_eq_ite, initEvents, List.append_assoc]
    rfl
  · rw [initBody_eq]
    rfl
  · have hevents : (initBody s).trace = s.trace ++ initEvents s.cfg s.csm s.css := by rw [initBody_eq]
    have hnew : newEvents s (forgetWork (setResult .ok (initBody s))) = initEvents s.cfg s.csm s.css := by
      simp [newEvents, hevents]
    exact hnew ▸ initEvents_no_sample s.cfg s.csm s.css

/-- Settles O23: the two refusals change the result alone; an accepted cycle is `cycleBody` in full, whose last wait takes
a sample; and a busy-wait keeps the power state that its command entered. -/
theorem cycleFollowsItsRule : Obligations.CycleFollowsItsRule := by
  refine ⟨rfl, fun s hinit => ⟨_, exec_cycle_notInitialized hinit, rfl, rfl⟩,
    fun s hinit hrender => ⟨_, exec_cycle_noValidRender hinit hrender, rfl, rfl⟩, fun s hinit hrender hvalid => ?_,
    fun s hinit hrender => ⟨_, exec_cycle_accepted hinit hrender⟩, fun ph s => ?_⟩
  · obtain ⟨w1, w2, w3, o1, o2, o3, env', h1, h2, h3, hbody⟩ := cycleBody_spec s
    refine ⟨w1, w2, w3, o1, o2, o3, _, h1, h2, h3, exec_cycle_accepted hinit hrender, ?_⟩
    rw [hbody]
    simp [afterCycle, h3.getLast?_getD hvalid _ s.busyLast, h3.ne_nil hvalid, countTimeouts_eq, waitResult_code,
      forgetWork, or_assoc]
  · have hcommand : (powerCommand ph s).power
        = match ph with | .powerOn => .poweredOn | .refresh => .refreshing | .powerOff => .off := by
      rw [powerCommand_power]
      cases ph <;> rfl
    exact ⟨rfl, hcommand, (busyWait_power _).trans hcommand⟩

end Sys2Proof.Machine
end

section
/-! PROOFS. A render that a short read aborts (spec/42_renderer.md R165). The two passes are one argument: each lemma speaks
of pass `p`, whose rows, target and events are named first. -/

namespace Sys2Proof.Machine

/-- The controller a pass streams to (R161, R164). -/
def passTarget : Pass → Target
  | .master => .master
  | .slave => .slave

/-- The chip-select line of that controller. -/
def passLine : Pass → Line
  | .master => .csM
  | .slave => .csS

/-- The code a short read of the pass is reported by (R165, R200). -/
def shortCode : Pass → ResultCode
  | .master => .shortReadMaster
  | .slave => .shortReadSlave

/-- One row of the pass. -/
def passRow : Pass → Nat → State → Ran
  | .master => masterRow
  | .slave => slaveRow

/-- The pass up to its first row. -/
def passStart : Pass → State → State
  | .master => masterStart
  | .slave => slaveStart

/-- The whole pass. -/
def runPass : Pass → State → Ran
  | .master => masterPass
  | .slave => slavePass

/-- What the pass does with the row buffer between a row's two reads: the master pass streams it (R161). -/
def betweenReads : Pass → State → State
  | .master, s => busBlock s.work.rowbuf s
  | .slave, s => s

/-- What the pass does with the row buffer after a row's two reads: the slave pass streams it (R164). -/
def afterReads : Pass → State → State
  | .master, s => s
  | .slave, s => busBlock s.work.rowbuf s

/-- The half of row `r` that the pass streams (R65). -/
def passHalf : Pass → Config → List Byte → Nat → List Byte
  | .master => masterHalf
  | .slave => slaveHalf

/-- A completed row of the pass. -/
def passRowEvents : Pass → Config → List Byte → Nat → List Event
  | .master => masterRowEvents
  | .slave => slaveRowEvents

/-- What a row of the pass emits before its second read: only the master pass streams there. -/
def firstHalfEvents : Pass → Config → List Byte → Nat → List Event
  | .master, c, F, r =>
    .sread (r * c.bpr) c.half c.half :: (masterHalf c F r).map fun b => .xfer c.dcData Target.master.sel b
  | .slave, c, _, r => [.sread (r * c.bpr) c.half c.half]

/-- The slave pass rewinds the file first (R164). -/
def rewindEvents : Pass → List Event
  | .master => []
  | .slave => [.sseek 0]

/-- The start of the pass, from lines at `csm` and `css`. -/
def passStartEvents (p : Pass) (c : Config) (csm css : Bool) : List Event :=
  rewindEvents p ++ selEvents c csm css (passTarget p) ++ [.xfer c.dcCmd (passTarget p).sel c.cmdDtm]

/-- The rows of the pass from row `r` on, up to the `j`-th read from there. -/
def rowsUntilRead (p : Pass) (c : Config) (F : List Byte) (r j : Nat) : List Event :=
  (List.range' r (j / 2)).flatMap (passRowEvents p c F)
    ++ if j % 2 = 0 then [] else firstHalfEvents p c F (r + j / 2)

/-- The pass up to its read `j`. -/
def passUntilRead (p : Pass) (c : Config) (csm css : Bool) (F : List Byte) (j : Nat) : List Event :=
  passStartEvents p c csm css ++ rowsUntilRead p c F 0 j

/-- The short read of `n` bytes at offset `off`, and the abort after it (R165). -/
def abortEvents (p : Pass) (c : Config) (off n : Nat) : List Event :=
  [.sread off c.half n, .line (passLine p) c.csActive.flip, .sclose]

/-- From `s`, the body `x` emits `evs` and is then aborted in pass `p`, with `rows` rows completed, by a read of `n` bytes at
offset `off`. -/
def Aborts (p : Pass) (rows off n : Nat) (evs : List Event) (s : State) (x : Ran) : Prop :=
  ∃ env dc work, x = .raised { s with
    env := env, csm := false, css := false, dc := dc, rprog := ⟨p, BitVec.ofNat 11 rows⟩, result := (shortCode p).code
    work := work, openFile := none, trace := s.trace ++ evs ++ abortEvents p s.cfg off n }

/-- `t` is `s` after work of a render that emitted `evs` and raised nothing. -/
def Worked (evs : List Event) (s t : State) : Prop :=
  t = { s with env := t.env, csm := t.csm, css := t.css, dc := t.dc, rprog := t.rprog, work := t.work
               openFile := t.openFile, trace := s.trace ++ evs }

/-- `s` is in row `r` of pass `p`, over the open file `F` of the right size. -/
structure InRow (p : Pass) (F : List Byte) (r : Nat) (s : State) : Prop where
  valid : s.cfg.valid = true
  size : F.length = s.cfg.fbSize
  openFile : s.openFile = some (StoredFile.ofBytes F)
  csm : s.csm = (passTarget p).hasM
  css : s.css = (passTarget p).hasS
  rprog : s.rprog = ⟨p, BitVec.ofNat 11 r⟩

/-! How an abort travels out of the parts of a render. -/

theorem Aborts.after {p : Pass} {rows off n : Nat} {evs evs' : List Event} {s s' : State} {x : Ran}
    (hw : Worked evs' s s') (hx : Aborts p rows off n evs s' x) : Aborts p rows off n (evs' ++ evs) s x := by
  obtain ⟨env, dc, work, rfl⟩ := hx
  refine ⟨env, dc, work, ?_⟩
  rw [hw]
  simp

/-- No later step of the body runs. -/
theorem Aborts.andThen {p : Pass} {rows off n : Nat} {evs : List Event} {s : State} {x : Ran}
    (hx : Aborts p rows off n evs s x) (f : State → Ran) : Aborts p rows off n evs s (x.andThen f) := by
  obtain ⟨env, dc, work, rfl⟩ := hx
  exact ⟨env, dc, work, rfl⟩

/-! The passes in one form. -/

/-- A row of a pass is its two reads, and what is streamed between and after them (R161, R164). -/
theorem passRow_eq (p : Pass) (r : Nat) (s : State) :
    passRow p r s = (readHalf (passTarget p) (shortCode p) (startRow r s)).andThen fun u =>
      (readHalf (passTarget p) (shortCode p) (betweenReads p u)).andThen fun v => .done (endRow p r (afterReads p v)) := by
  cases p <;> rfl

/-- A pass is its start, its rows and the release of its select (R161, R164). -/
theorem runPass_eq (p : Pass) (s : State) :
    runPass p s = (rowsFrom (passRow p) s.cfg.h 0 (passStart p s)).andThen fun t => .done (busDesel (passTarget p) t) := by
  cases p <;> rfl

/-- The start of a pass in full; the slave pass resets the progress itself (R161, R164). -/
theorem passStart_eq {p : Pass} {s : State} (hp : p = .master → s.rprog = ⟨.master, 0⟩) :
    passStart p s = { s with
      csm := (passTarget p).hasM, css := (passTarget p).hasS, dc := s.cfg.dcCmd, rprog := ⟨p, 0⟩
      work := { s.work with cur := 0, pass := p }, trace := s.trace ++ passStartEvents p s.cfg s.csm s.css } := by
  cases p with
  | master =>
    simp [passStart, masterStart, busSel_eq, busCmd_eq, State.sel, Target.sel, passTarget, passStartEvents, rewindEvents,
      hp rfl]
  | slave =>
    simp [passStart, slaveStart, busSel_eq, busCmd_eq, State.sel, Target.sel, passTarget, passStartEvents, rewindEvents,
      seekStart, emit, setProgress]

theorem passRow_rowWhole (p : Pass) (F : List Byte) :
    RowWhole (passRow p) p (fun c => passRowEvents p c F) F (passTarget p).hasM (passTarget p).hasS := by
  cases p with
  | master => exact fun r s rest => masterRow_whole r s F rest
  | slave => exact fun r s rest => slaveRow_whole r s F rest

/-! One read and one row. -/

/-- A short read of a half-row aborts the pass (R165). -/
theorem readHalf_short {p : Pass} {F : List Byte} {r off : Nat} {s : State} {bad : ReadReply} {rest : List ReadReply}
    (hs : InRow p F r s) (hcur : s.work.cur = off) (hr : s.env.readIn = bad :: rest)
    (hn : (bad.bytes s.cfg.half (fileBytes F off s.cfg.half)).length < s.cfg.half) :
    Aborts p r off (bad.bytes s.cfg.half (fileBytes F off s.cfg.half)).length [] s
      (readHalf (passTarget p) (shortCode p) s) := by
  have hslice : fileSlice s off s.cfg.half = fileBytes F off s.cfg.half := by
    rw [fileSlice, hs.openFile]
    exact StoredFile.slice_ofBytes F _ _
  refine ⟨{ s.env with readIn := rest }, s.dc,
    { s.work with rowbuf := bad.bytes s.cfg.half (fileBytes F off s.cfg.half) }, ?_⟩
  rw [readHalf, memRead_pending _ _ _ _ _ hr, hcur, hslice, checkHalf, if_pos hn, abortPass, busDesel_eq]
  cases p <;>
    simp [hs.csm, hs.css, ← hs.rprog, raise, closeFile, emit, setResult, deselEvents, abortEvents, passTarget, passLine,
      Target.hasM, Target.hasS]

theorem InRow.startRow {p : Pass} {F : List Byte} {r : Nat} {s : State} (hs : InRow p F r s) (i : Nat) :
    InRow p F r (startRow i s) :=
  ⟨hs.valid, hs.size, hs.openFile, hs.csm, hs.css, hs.rprog⟩

theorem InRow.afterHalf {p : Pass} {F : List Byte} {r : Nat} {s : State} (hs : InRow p F r s) (rest : List ReadReply) :
    InRow p F r (afterHalf F rest s) :=
  ⟨hs.valid, hs.size, hs.openFile, hs.csm, hs.css, hs.rprog⟩

theorem InRow.betweenReads {p : Pass} {F : List Byte} {r : Nat} {s : State} (hs : InRow p F r s) :
    InRow p F r (betweenReads p s) := by
  cases p with
  | master =>
    rw [Machine.betweenReads, busBlock_eq]
    exact ⟨hs.valid, hs.size, hs.openFile, hs.csm, hs.css, hs.rprog⟩
  | slave => exact hs

theorem worked_startRow (r : Nat) (s : State) : Worked [] s (startRow r s) := by
  simp [Worked, startRow]

/-- A short first read of row `r`: the row has emitted nothing (R165). -/
theorem passRow_short_first {p : Pass} {F : List Byte} {r : Nat} {s : State} {bad : ReadReply} {rest : List ReadReply}
    (hs : InRow p F r s) (hcur : s.work.cur = r * s.cfg.bpr) (hr : s.env.readIn = bad :: rest)
    (hn : (bad.bytes s.cfg.half (fileBytes F (r * s.cfg.bpr) s.cfg.half)).length < s.cfg.half) :
    Aborts p r (r * s.cfg.bpr) (bad.bytes s.cfg.half (fileBytes F (r * s.cfg.bpr) s.cfg.half)).length [] s
      (passRow p r s) := by
  rw [passRow_eq]
  exact (Aborts.after (worked_startRow r s) (readHalf_short (hs.startRow r) hcur hr hn)).andThen _

/-- From the start of row `r` to its second read, when the first is whole (R161, R164). -/
theorem worked_betweenReads {p : Pass} {F : List Byte} {r : Nat} {s : State} (rest : List ReadReply)
    (hs : InRow p F r s) (hcur : s.work.cur = r * s.cfg.bpr) :
    Worked (firstHalfEvents p s.cfg F r) s (betweenReads p (afterHalf F rest (startRow r s))) := by
  cases p with
  | master =>
    simp [Worked, betweenReads, busBlock_eq, afterHalf, startRow, firstHalfEvents, masterHalf, hcur, State.sel, Target.sel,
      hs.csm, hs.css, passTarget]
  | slave => simp [Worked, betweenReads, afterHalf, startRow, firstHalfEvents, hcur]

theorem betweenReads_cfg_work_env (p : Pass) (s : State) :
    (betweenReads p s).cfg = s.cfg ∧ (betweenReads p s).work = s.work ∧ (betweenReads p s).env = s.env := by
  cases p with
  | master =>
    rw [betweenReads, busBlock_eq]
    exact ⟨rfl, rfl, rfl⟩
  | slave => exact ⟨rfl, rfl, rfl⟩

/-- A short second read of row `r`: the master pass has streamed the row's first half (R165). -/
theorem passRow_short_second {p : Pass} {F : List Byte} {r : Nat} {s : State} {bad : ReadReply} {rest : List ReadReply}
    (hs : InRow p F r s) (hcur : s.work.cur = r * s.cfg.bpr) (hlen : r * s.cfg.bpr + s.cfg.half ≤ F.length)
    (hr : s.env.readIn = .whole :: bad :: rest)
    (hn : (bad.bytes s.cfg.half (fileBytes F (r * s.cfg.bpr + s.cfg.half) s.cfg.half)).length < s.cfg.half) :
    Aborts p r (r * s.cfg.bpr + s.cfg.half)
      (bad.bytes s.cfg.half (fileBytes F (r * s.cfg.bpr + s.cfg.half) s.cfg.half)).length (firstHalfEvents p s.cfg F r) s
      (passRow p r s) := by
  have hfirst := readHalf_whole (passTarget p) (shortCode p) (startRow r s) F (bad :: rest) hs.openFile hr
    (by simpa [hcur] using hlen)
  obtain ⟨hcfg, hwork, henv⟩ := betweenReads_cfg_work_env p (afterHalf F (bad :: rest) (startRow r s))
  have hcfg' : (betweenReads p (afterHalf F (bad :: rest) (startRow r s))).cfg = s.cfg := hcfg
  have hsecond := readHalf_short (off := r * s.cfg.bpr + s.cfg.half) ((hs.startRow r).afterHalf (bad :: rest)).betweenReads
    (by rw [hwork]; exact congrArg (· + s.cfg.half) hcur) (by rw [henv]; rfl) (by rw [hcfg']; exact hn)
  rw [hcfg'] at hsecond
  rw [passRow_eq, hfirst, Ran.andThen]
  simpa using (Aborts.after (worked_betweenReads (bad :: rest) hs hcur) hsecond).andThen _

/-! The rows of a pass. -/

/-- One more whole row before the short read (R165). -/
theorem rowsUntilRead_succ_row (p : Pass) (c : Config) (F : List Byte) (r j : Nat) :
    rowsUntilRead p c F r (j + 2) = passRowEvents p c F r ++ rowsUntilRead p c F (r + 1) j := by
  have hdiv : (j + 2) / 2 = j / 2 + 1 := by omega
  have hmod : (j + 2) % 2 = j % 2 := by omega
  have hrow : r + (j / 2 + 1) = r + 1 + j / 2 := by omega
  rw [rowsUntilRead, rowsUntilRead, hdiv, hmod, hrow, List.range'_succ, List.flatMap_cons, List.append_assoc]

/-- The reads before a short one are whole: the pass is aborted by its read number `j` from row `r` on (R165). -/
theorem rowsFrom_short {p : Pass} {F : List Byte} {bad : ReadReply} {rest : List ReadReply} (n r j : Nat) {s : State}
    (hs : InRow p F r s) (hcur : s.work.cur = r * s.cfg.bpr) (hj : j < 2 * n) (hlen : (r + n) * s.cfg.bpr ≤ F.length)
    (hr : s.env.readIn = List.replicate j .whole ++ bad :: rest)
    (hn : (bad.bytes s.cfg.half (fileBytes F ((2 * r + j) * s.cfg.half) s.cfg.half)).length < s.cfg.half) :
    Aborts p (r + j / 2) ((2 * r + j) * s.cfg.half)
      (bad.bytes s.cfg.half (fileBytes F ((2 * r + j) * s.cfg.half) s.cfg.half)).length (rowsUntilRead p s.cfg F r j) s
      (rowsFrom (passRow p) n r s) := by
  induction n generalizing r j s with
  | zero => omega
  | succ n ih =>
    have hbpr := bpr_eq_two_half hs.valid
    have hle : (r + 1) * s.cfg.bpr ≤ F.length := le_trans (Nat.mul_le_mul_right _ (by omega)) hlen
    match j with
    | 0 =>
      have hoff : (2 * r + 0) * s.cfg.half = r * s.cfg.bpr := by rw [hbpr]; ring
      rw [hoff] at hn ⊢
      exact (passRow_short_first hs hcur hr hn).andThen _
    | 1 =>
      have hoff : (2 * r + 1) * s.cfg.half = r * s.cfg.bpr + s.cfg.half := by rw [hbpr]; ring
      have hfits : r * s.cfg.bpr + s.cfg.half ≤ F.length := by
        rw [Nat.add_mul] at hle
        omega
      rw [hoff] at hn ⊢
      exact (passRow_short_second hs hcur hfits hr hn).andThen _
    | j + 2 =>
      rw [List.replicate_succ, List.replicate_succ, List.cons_append, List.cons_append] at hr
      obtain ⟨w, hw, hrow⟩ := passRow_rowWhole p F r s (List.replicate j .whole ++ bad :: rest) hbpr hs.openFile hr
        hcur hle hs.csm hs.css
      have hread : 2 * r + (j + 2) = 2 * (r + 1) + j := by ring
      have hrows : r + (j + 2) / 2 = r + 1 + j / 2 := by omega
      rw [hread] at hn
      rw [rowsFrom, hrow, Ran.andThen, rowsUntilRead_succ_row, hread, hrows]
      refine .after ?_ (ih (r + 1) j ?_ hw (by omega) ?_ rfl hn)
      · rfl
      · exact ⟨hs.valid, hs.size, hs.openFile, hs.csm, hs.css, rfl⟩
      · rw [show r + 1 + n = r + (n + 1) by omega]
        exact hlen

/-! The passes and the render. -/

/-- A pass whose read `j` is its first short one (R165). -/
theorem runPass_short {p : Pass} {F : List Byte} {bad : ReadReply} {rest : List ReadReply} {j : Nat} {s : State}
    (hv : s.cfg.valid = true) (ho : s.openFile = some (StoredFile.ofBytes F)) (hF : F.length = s.cfg.fbSize)
    (hp : p = .master → s.rprog = ⟨.master, 0⟩) (hj : j < 2 * s.cfg.h)
    (hr : s.env.readIn = List.replicate j .whole ++ bad :: rest)
    (hn : (bad.bytes s.cfg.half (fileBytes F (j * s.cfg.half) s.cfg.half)).length < s.cfg.half) :
    Aborts p (j / 2) (j * s.cfg.half) (bad.bytes s.cfg.half (fileBytes F (j * s.cfg.half) s.cfg.half)).length
      (passUntilRead p s.cfg s.csm s.css F j) s (runPass p s) := by
  have hstart := passStart_eq hp
  have hcfg : (passStart p s).cfg = s.cfg := by rw [hstart]
  have hw : Worked (passStartEvents p s.cfg s.csm s.css) s (passStart p s) := by
    rw [hstart]
    rfl
  have hin : InRow p F 0 (passStart p s) := by
    rw [hstart]
    exact ⟨hv, hF, ho, rfl, rfl, rfl⟩
  have hrows := rowsFrom_short s.cfg.h 0 j hin (by rw [hstart, Nat.zero_mul]) hj
    (by rw [hcfg, hF, Nat.zero_add]; exact le_refl _) (by rw [hstart]; exact hr) (by simpa [hcfg] using hn)
  rw [hcfg, Nat.mul_zero, Nat.zero_add, Nat.zero_add] at hrows
  rw [runPass_eq]
  exact (Aborts.after hw hrows).andThen _

/-- What a render emits after its SOPEN up to its read `k`, from lines at `csm` and `css`. -/
def passesUntilRead (c : Config) (csm css : Bool) (F : List Byte) (k : Nat) : List Event :=
  if k < 2 * c.h then passUntilRead .master c csm css F k
  else masterPassEvents c csm css F ++ .delay .passSettle :: passUntilRead .slave c false false F (k % (2 * c.h))

/-- The pass of a render's read `k`. -/
def passOfRead (c : Config) (k : Nat) : Pass := if k < 2 * c.h then .master else .slave

/-- A master pass with whole reads leaves the block at the start of the slave pass (R160, R161). -/
theorem masterPass_settled {s : State} {F : List Byte} {rest : List ReadReply} (hv : s.cfg.valid = true)
    (ho : s.openFile = some (StoredFile.ofBytes F)) (hF : F.length = s.cfg.fbSize)
    (hr : s.env.readIn = List.replicate (2 * s.cfg.h) .whole ++ rest) :
    ∃ t, masterPass s = .done t
      ∧ Worked (masterPassEvents s.cfg s.csm s.css F ++ [.delay .passSettle]) s (delay .passSettle t)
      ∧ t.csm = false ∧ t.css = false ∧ t.openFile = s.openFile ∧ t.env.readIn = rest := by
  obtain ⟨w, hmaster⟩ := masterPass_whole s F rest hv ho hF hr
  refine ⟨_, hmaster, ?_, rfl, rfl, rfl, rfl⟩
  simp [Worked, delay, emit]

/-- The passes over a file of size FB_SIZE, where read `k` is the first short one (R165). -/
theorem renderPasses_short {F : List Byte} {bad : ReadReply} {rest : List ReadReply} {j k : Nat} {s : State}
    (hv : s.cfg.valid = true) (ho : s.openFile = some (StoredFile.ofBytes F)) (hF : F.length = s.cfg.fbSize)
    (hp : s.rprog = ⟨.master, 0⟩) (hk : k < 4 * s.cfg.h) (hr : s.env.readIn = List.replicate k .whole ++ bad :: rest)
    (hj : k % (2 * s.cfg.h) = j)
    (hn : (bad.bytes s.cfg.half (fileBytes F (j * s.cfg.half) s.cfg.half)).length < s.cfg.half) :
    Aborts (passOfRead s.cfg k) (j / 2) (j * s.cfg.half)
      (bad.bytes s.cfg.half (fileBytes F (j * s.cfg.half) s.cfg.half)).length (passesUntilRead s.cfg s.csm s.css F k) s
      (renderPasses s) := by
  rw [passesUntilRead, passOfRead]
  split
  next hmaster =>
    obtain rfl : k = j := by rw [← hj, Nat.mod_eq_of_lt hmaster]
    exact (runPass_short (p := .master) hv ho hF (fun _ => hp) hmaster hr hn).andThen _
  next hslave =>
    have hsplit : k = 2 * s.cfg.h + j := by
      rw [← hj, Nat.mod_eq_sub_mod (by omega), Nat.mod_eq_of_lt (by omega)]
      omega
    have hreads : s.env.readIn = List.replicate (2 * s.cfg.h) .whole ++ (List.replicate j .whole ++ bad :: rest) := by
      rw [hr, hsplit, ← List.replicate_append_replicate, List.append_assoc]
    obtain ⟨t, hmaster, hw, hm, hs, hopen, hrest⟩ := masterPass_settled hv ho hF hreads
    have hcfg : (delay .passSettle t).cfg = s.cfg := by rw [hw]
    have hpass := runPass_short (p := .slave) (F := F) (j := j) (s := delay .passSettle t) (by rw [hcfg]; exact hv)
      (hopen.trans ho) (by rw [hcfg]; exact hF) (fun h => nomatch h) (by rw [hcfg]; omega) hrest (by rw [hcfg]; exact hn)
    rw [hcfg, delay_csm, delay_css, hm, hs] at hpass
    rw [renderPasses, hmaster, Ran.andThen, hj, List.append_cons]
    exact (Aborts.after hw hpass).andThen _

/-- The start of a render with a pending file (R61, R160). -/
theorem startRender_pending {s : State} {F : List Byte} {files : List (Option (List Byte))}
    (hf : s.env.openIn = some F :: files) :
    startRender s = { s with
      env := { s.env with openIn := files }, renderOk := false, rprog := ⟨.master, 0⟩
      openFile := some (StoredFile.ofBytes F), trace := s.trace ++ [.sopen (some F.length)] } :=
  sizeQuery_pending (setProgress .master 0 { s with renderOk := false }) (some F) files hf

/-- A file of the right size is rendered in two passes (R160). -/
theorem renderBody_of_size {s : State} {F : List Byte} {files : List (Option (List Byte))}
    (hf : s.env.openIn = some F :: files) (hF : F.length = s.cfg.fbSize) :
    renderBody s = renderPasses (startRender s) := by
  have hsize : (StoredFile.ofBytes F).size = s.cfg.fbSize := hF
  rw [renderBody, startRender_pending hf]
  simp [renderOpened, hsize]

/-- `render_body()` on a file of size FB_SIZE whose read `k` is the first short one (R165). -/
theorem renderBody_short {s : State} {F : List Byte} {files : List (Option (List Byte))} {j k : Nat} {bad : ReadReply}
    {rest : List ReadReply} (hv : s.cfg.valid = true) (hf : s.env.openIn = some F :: files)
    (hF : F.length = s.cfg.fbSize) (hk : k < 4 * s.cfg.h) (hr : s.env.readIn = List.replicate k .whole ++ bad :: rest)
    (hj : k % (2 * s.cfg.h) = j)
    (hn : (bad.bytes s.cfg.half (fileBytes F (j * s.cfg.half) s.cfg.half)).length < s.cfg.half) :
    Aborts (passOfRead s.cfg k) (j / 2) (j * s.cfg.half)
      (bad.bytes s.cfg.half (fileBytes F (j * s.cfg.half) s.cfg.half)).length
      (.sopen (some F.length) :: passesUntilRead s.cfg s.csm s.css F k) { s with renderOk := false } (renderBody s) := by
  rw [renderBody_of_size hf hF, startRender_pending hf]
  have hopened : Worked [.sopen (some F.length)] { s with renderOk := false } { s with
      env := { s.env with openIn := files }, renderOk := false, rprog := ⟨.master, 0⟩
      openFile := some (StoredFile.ofBytes F), trace := s.trace ++ [.sopen (some F.length)] } := rfl
  exact Aborts.after hopened (renderPasses_short hv rfl hF rfl hk hr hj hn)

/-- RENDER with a body that aborts, in full (R160, R165). -/
theorem exec_render_aborts {p : Pass} {rows off n : Nat} {evs : List Event} {s : State} (hinit : s.initialized = true)
    (h : Aborts p rows off n evs { s with renderOk := false } (renderBody s)) :
    ∃ t, exec .render s = .next t
      ∧ t = { s with
          csm := false, css := false, dc := t.dc, renderOk := false, rprog := ⟨p, BitVec.ofNat 11 rows⟩
          result := (shortCode p).code, openFile := none, phase := .idle, trace := t.trace, work := t.work, env := t.env }
      ∧ newEvents s t = evs ++ abortEvents p s.cfg off n := by
  obtain ⟨env, dc, work, hbody⟩ := h
  refine ⟨_, rfl, ?_, ?_⟩
  · simp [renderChecked, hinit, hbody, Ran.andThen, Ran.state, forgetWork]
  · simp [newEvents, renderChecked, hinit, hbody, Ran.andThen, Ran.state]

/-! What the controllers receive, and the delay between the passes. -/

/-- What the pass has streamed before its read `j` (R161, R164). -/
def streamUntilRead : Pass → Config → List Byte → Nat → List Byte
  | .master, c, F, j => masterStream c F ((j + 1) / 2)
  | .slave, c, F, j => slaveStream c F (j / 2)

theorem receivedBy_flatMap (h : Half) (l : List Nat) (f : Nat → List Event) :
    receivedBy h (l.flatMap f) = l.flatMap fun r => receivedBy h (f r) :=
  List.filterMap_flatMap

theorem receivedBy_keepaliveEvents (h : Half) (c : Config) (r : Nat) : receivedBy h (keepaliveEvents c r) = [] := by
  unfold keepaliveEvents
  split <;> rfl

/-- A completed row streams the pass's half to its controller alone (R161, R164). -/
theorem receivedBy_passRowEvents (h : Half) (p : Pass) (c : Config) (F : List Byte) (r : Nat) :
    receivedBy h (passRowEvents p c F r) = if (passTarget p).sel.has h then passHalf p c F r else [] := by
  have hread (off n m : Nat) : receivedBy h [.sread off n m] = [] := rfl
  have hreads (off n m off' n' m' : Nat) : receivedBy h [.sread off n m, .sread off' n' m'] = [] := rfl
  cases p with
  | master =>
    rw [passRowEvents, masterRowEvents, receivedBy_append, receivedBy_append, receivedBy_append, hread, hread,
      receivedBy_xfers, receivedBy_keepaliveEvents, List.append_nil, List.append_nil]
    rfl
  | slave =>
    rw [passRowEvents, slaveRowEvents, receivedBy_append, receivedBy_append, hreads, receivedBy_xfers,
      receivedBy_keepaliveEvents, List.append_nil]
    rfl

theorem receivedBy_firstHalfEvents (h : Half) (p : Pass) (c : Config) (F : List Byte) (r : Nat) :
    receivedBy h (firstHalfEvents p c F r)
      = if p = .master ∧ Target.master.sel.has h then masterHalf c F r else [] := by
  cases p with
  | master =>
    rw [firstHalfEvents, receivedBy_cons_none _ _ _ rfl, receivedBy_xfers]
    simp
  | slave => rfl

theorem receivedBy_passStartEvents (h : Half) (p : Pass) (c : Config) (csm css : Bool) :
    receivedBy h (passStartEvents p c csm css) = if (passTarget p).sel.has h then [c.cmdDtm] else [] := by
  have hrewind : receivedBy h (rewindEvents p) = [] := by cases p <;> rfl
  rw [passStartEvents, receivedBy_append, receivedBy_append, hrewind, receivedBy_sel, receivedBy_singleton_xfer]
  rfl

theorem receivedBy_abortEvents (h : Half) (p : Pass) (c : Config) (off n : Nat) :
    receivedBy h (abortEvents p c off n) = [] := rfl

/-- The stream as the halves of the completed rows and, for the master pass, of the row cut off at its second read. -/
theorem streamUntilRead_eq (p : Pass) (c : Config) (F : List Byte) (j : Nat) :
    streamUntilRead p c F j
      = (List.range (j / 2)).flatMap (passHalf p c F)
        ++ if j % 2 = 0 then [] else if p = .master then masterHalf c F (j / 2) else [] := by
  cases p with
  | slave => simp [streamUntilRead, slaveStream, passHalf]
  | master =>
    split
    next heven =>
      have hrows : (j + 1) / 2 = j / 2 := by omega
      simp [streamUntilRead, masterStream, passHalf, hrows]
    next hodd =>
      have hrows : (j + 1) / 2 = j / 2 + 1 := by omega
      simp [streamUntilRead, masterStream, passHalf, hrows, List.range_succ]

/-- Up to its read `j` a pass has sent its controller the command and the halves streamed, and the other nothing (R162,
R165). -/
theorem receivedBy_passUntilRead (h : Half) (p : Pass) (c : Config) (csm css : Bool) (F : List Byte) (j : Nat) :
    receivedBy h (passUntilRead p c csm css F j)
      = if (passTarget p).sel.has h then c.cmdDtm :: streamUntilRead p c F j else [] := by
  rw [passUntilRead, rowsUntilRead, receivedBy_append, receivedBy_append, receivedBy_passStartEvents, receivedBy_flatMap,
    streamUntilRead_eq, List.range_eq_range']
  simp only [receivedBy_passRowEvents, apply_ite (receivedBy h), receivedBy_firstHalfEvents, receivedBy_nil, Nat.zero_add]
  cases p with
  | master => by_cases hsel : Target.master.sel.has h = true <;> simp [passTarget, hsel]
  | slave => by_cases hsel : Target.slave.sel.has h = true <;> simp [passTarget, hsel]

/-- A completed master pass is one up to the read after its last, and the release of its select (R161). -/
theorem masterPassEvents_eq (c : Config) (csm css : Bool) (F : List Byte) :
    masterPassEvents c csm css F = passUntilRead .master c csm css F (2 * c.h) ++ [.line .csM c.csActive.flip] := by
  simp [masterPassEvents, passUntilRead, passStartEvents, rewindEvents, rowsUntilRead, rowEvents, List.range_eq_range',
    passTarget, passRowEvents]

theorem receivedBy_masterPassEvents (h : Half) (c : Config) (csm css : Bool) (F : List Byte) :
    receivedBy h (masterPassEvents c csm css F)
      = if Target.master.sel.has h then c.cmdDtm :: masterStream c F c.h else [] := by
  have hrows : (2 * c.h + 1) / 2 = c.h := by omega
  rw [masterPassEvents_eq, receivedBy_append, receivedBy_passUntilRead, receivedBy_cons_none _ _ _ rfl, receivedBy_nil,
    List.append_nil, streamUntilRead, hrows]
  rfl

theorem passSettle_notMem_passUntilRead (p : Pass) (c : Config) (csm css : Bool) (F : List Byte) (j : Nat) :
    .delay .passSettle ∉ passUntilRead p c csm css F j := by
  have hsel : .delay .passSettle ∉ selEvents c csm css (passTarget p) := by
    cases p <;> cases csm <;> cases css <;> simp [selEvents, passTarget, Target.hasM, Target.hasS]
  have hkeep : ∀ r, .delay .passSettle ∉ keepaliveEvents c r := by
    intro r
    simp [keepaliveEvents]
  have hrow : ∀ r, .delay .passSettle ∉ passRowEvents p c F r := by
    intro r
    cases p <;> simp [passRowEvents, masterRowEvents, slaveRowEvents, hkeep]
  have hfirst : ∀ r, .delay .passSettle ∉ firstHalfEvents p c F r := by
    intro r
    cases p <;> simp [firstHalfEvents]
  have hrewind : .delay .passSettle ∉ rewindEvents p := by
    cases p <;> simp [rewindEvents]
  simp [passUntilRead, passStartEvents, rowsUntilRead, hsel, hrow, hrewind, hfirst]

/-- The delay between the passes of a render comes before the slave pass and nowhere else (R160). -/
theorem count_passSettle_passesUntilRead (c : Config) (csm css : Bool) (F : List Byte) (k : Nat) :
    (passesUntilRead c csm css F k).count (.delay .passSettle) = if k < 2 * c.h then 0 else 1 := by
  have hpass (p : Pass) (a b : Bool) (j : Nat) : (passUntilRead p c a b F j).count (.delay .passSettle) = 0 :=
    List.count_eq_zero.2 (passSettle_notMem_passUntilRead p c a b F j)
  rw [passesUntilRead, masterPassEvents_eq]
  split <;> simp [hpass]

/-- The master controller's stream in a render up to its read `k`: whole if a slave pass has begun (R162, R165). -/
theorem receivedBy_master_passesUntilRead (c : Config) (csm css : Bool) (F : List Byte) (k : Nat) :
    receivedBy .master (passesUntilRead c csm css F k)
      = c.cmdDtm :: masterStream c F (if k < 2 * c.h then (k + 1) / 2 else c.h) := by
  rw [passesUntilRead]
  split
  · rw [receivedBy_passUntilRead]
    rfl
  · rw [receivedBy_append, receivedBy_cons_none _ _ _ rfl, receivedBy_masterPassEvents, receivedBy_passUntilRead]
    exact List.append_nil _

/-- The slave controller's stream in a render up to its read `k`: none before the slave pass (R164, R165). -/
theorem receivedBy_slave_passesUntilRead (c : Config) (csm css : Bool) (F : List Byte) (k : Nat) :
    receivedBy .slave (passesUntilRead c csm css F k)
      = if k < 2 * c.h then [] else c.cmdDtm :: slaveStream c F (k % (2 * c.h) / 2) := by
  rw [passesUntilRead]
  split
  · rw [receivedBy_passUntilRead]
    rfl
  · rw [receivedBy_append, receivedBy_cons_none _ _ _ rfl, receivedBy_masterPassEvents, receivedBy_passUntilRead]
    rfl

/-! The statement. -/

/-- Settles O31: the render emits `passesUntilRead` and is aborted there, and the streams and the delay are read off these
events; read `k` is read `k % 2H` of its pass. -/
theorem shortReadAbortsTheRender : Obligations.ShortReadAbortsTheRender := by
  intro s F files k bad rest hv hinit hf hF hk hr j n hn
  obtain ⟨t, hexec, ht, hnew⟩ := exec_render_aborts hinit (renderBody_short hv hf hF hk hr (j := j) rfl hn)
  have hreceived (h : Half) : receivedBy h (newEvents s t) = receivedBy h (passesUntilRead s.cfg s.csm s.css F k) := by
    rw [hnew, receivedBy_append, receivedBy_abortEvents, List.append_nil, receivedBy_cons_none _ _ _ rfl]
  have habort : (abortEvents (passOfRead s.cfg k) s.cfg (j * s.cfg.half) n).count (.delay .passSettle) = 0 := by
    simp [abortEvents]
  refine ⟨t, hexec, ?_, ⟨.sopen (some F.length) :: passesUntilRead s.cfg s.csm s.css F k, ?_⟩,
    (hreceived .master).trans (receivedBy_master_passesUntilRead _ _ _ _ _),
    (hreceived .slave).trans (receivedBy_slave_passesUntilRead _ _ _ _ _), ?_⟩
  · rw [ht]
    unfold passOfRead
    split <;> rfl
  · rw [hnew]
    unfold passOfRead
    split <;> rfl
  · rw [hnew, List.count_append, habort, List.count_cons, count_passSettle_passesUntilRead]
    rfl

end Sys2Proof.Machine
end

section
/-! PROOFS. RDSTAT (spec/43_status.md R190, R191). -/

namespace Sys2Proof.Machine

/-- No status register shows `rdata`, the trace or the phase (R42). -/
theorem statusValue_with_rdata_trace_phase (k : Byte) (s : State) (v : Word) (evs : List Event) (p : Phase) :
    statusValue k { s with rdata := v, trace := evs, phase := p } = statusValue k s := rfl

/-- Settles O35: R191's words are the registers of R43 to R47, whose fields have the codes named here, and RDSTAT writes no
field that a register shows. -/
theorem rdstatReturnsTheStatusWord : Obligations.RdstatReturnsTheStatusWord := by
  intro k s b l p v
  have hlevel (x : Level) : l x = x.bit := by cases x <;> rfl
  have hpower : p = s.power.code := by
    simp only [p]
    cases s.power <;> rfl
  have hpass : b (decide (s.rprog.pass = .slave)) = s.rprog.pass.bit := s.rprog.pass.bit_eq_boolBit.symm
  have hvalue : statusValue k s = v := by
    simp only [v, hlevel, hpower, hpass]
    rfl
  have hexec := exec_rdstat_eq k s
  refine ⟨congrArg (fun w => [w]) (or_setWidth_eq_append 0xC0#8 k).symm, hvalue ▸ hexec, fun t k' ht => ?_⟩
  rw [hexec, Host.Outcome.next.injEq] at ht
  rw [← ht, statusValue_with_rdata_trace_phase]

end Sys2Proof.Machine
end

section
/-! PROOFS. Encoded programs and the idle step (spec/30_encoding.md, spec/10_state.md sections 1 and 8): which operation the
step takes, and the three things it refuses. -/

namespace Sys2Proof

/-- Settles O1: the words of an operation decode by their first word, and BLOCK's packed payload unpacks. -/
theorem decodeInvertsEncode : Obligations.DecodeInvertsEncode := decode_encode

/-- Well-formed operations in a row are a program in which no BLOCK runs past the end (R30, R84). -/
theorem programOk_encodeAll (is : List Instr) (h : ∀ i ∈ is, i.wf = true) : programOk (encodeAll is) = true := by
  have hprog := programOk_encodeAll_append is [] h
  rw [List.append_nil] at hprog
  exact hprog

/-- The constraints of R7, as the spec writes them. -/
theorem Config.valid_iff (c : Config) :
    c.valid = true ↔ 0 < c.w ∧ c.w % 4 = 0 ∧ 1 ≤ c.h ∧ c.h ≤ 2047 ∧ 1 ≤ c.yieldRows ∧ 1 ≤ c.nPolls ∧ c.resetSeq ≠ [] := by
  have one_le : ∀ n, atLeastOne n = true ↔ 0 < n := by
    intro n
    cases n <;> simp [atLeastOne]
  simp [Config.valid, one_le, and_assoc, Nat.succ_le_iff]

namespace Machine

/-- A program that is accepted is supplied with `pc` at its first word, and nothing else changes (R30). -/
theorem load_of_programOk {p : List Word} (h : programOk p = true) (s : State) :
    State.load p s = .next { s with prog := p, pc := 0 } := by
  rw [State.load, if_pos h]

theorem load_of_not_programOk {p : List Word} (h : programOk p = false) (s : State) :
    State.load p s = .refused .truncatedBlock := by
  simp [State.load, h]

/-- Settles O2: each operation's words decode to it, so the check passes from one to the next. -/
theorem encodedProgramsAreAccepted : Obligations.EncodedProgramsAreAccepted := by
  intro is s h
  have hprog := programOk_encodeAll is h
  exact ⟨hprog, load_of_programOk hprog s⟩

/-- Settles O3: all words but the last are encodings of well-formed operations; `0xD000` has an unused OPC. -/
theorem tableWordsDecode : Obligations.TableWordsDecode :=
  ⟨decode_encode (.nop 0x5A) [] rfl, decode_encode .selM [] rfl, decode_encode .deselBoth [] rfl,
    decode_encode (.cmd 0xFF) [] rfl, rfl, decode_encode .bwait [] rfl, decode_encode .render [] rfl,
    decode_encode (.rdstat 0x04) [] rfl, decode_of_illegal rfl []⟩

/-! The idle step by what it decodes. -/

theorem step_badConfig {s : State} (hidle : s.phase = .idle) (hvalid : s.cfg.valid = false) :
    step s = .refused .badConfig := by
  simp [step, hidle, hvalid]

/-- With no word left the sequencer stays idle (log entry 9). -/
theorem step_empty {s : State} (hidle : s.phase = .idle) (hvalid : s.cfg.valid = true)
    (hd : decode (s.prog.drop s.pc) = .empty) : step s = .next s := by
  simp [step, State.fetch, hidle, hvalid, hd]

theorem step_truncated {s : State} (hidle : s.phase = .idle) (hvalid : s.cfg.valid = true)
    (hd : decode (s.prog.drop s.pc) = .truncated) : step s = .refused .truncatedBlock := by
  simp [step, State.fetch, hidle, hvalid, hd]

/-- An idle step of an accepted configuration answers a next state, but at a BLOCK that is cut off (R202). -/
theorem step_next {s : State} (hidle : s.phase = .idle) (hvalid : s.cfg.valid = true)
    (hd : decode (s.prog.drop s.pc) ≠ .truncated) : ∃ t, step s = .next t := by
  cases hdec : decode (s.prog.drop s.pc) with
  | empty => exact ⟨s, step_empty hidle hvalid hdec⟩
  | op i rest =>
    obtain ⟨t, ht⟩ := exec_next i (takeOp i s)
    exact ⟨t, (step_op hidle hvalid hdec).trans ht⟩
  | illegal w rest => exact ⟨_, (step_illegal hidle hvalid hdec).trans (execIllegal_eq s)⟩
  | truncated => exact absurd hdec hd

/-- An accepted configuration is never refused as a bad one (R7). -/
theorem step_ne_badConfig {s : State} (hidle : s.phase = .idle) (hvalid : s.cfg.valid = true) :
    step s ≠ .refused .badConfig := by
  by_cases hd : decode (s.prog.drop s.pc) = .truncated
  · rw [step_truncated hidle hvalid hd]
    exact fun h => nomatch h
  · obtain ⟨t, ht⟩ := step_next hidle hvalid hd
    rw [ht]
    exact fun h => nomatch h

/-- Settles O6: the step is `exec` from the state in which the sequencer has taken the operation. -/
theorem stepRunsDecodedOperation : Obligations.StepRunsDecodedOperation := fun _ _ _ hidle hvalid hd =>
  step_op hidle hvalid hd

/-- Settles O7: the constraints are `Config.valid`, which the step checks before it decodes. -/
theorem badConfigurationsAreRefused : Obligations.BadConfigurationsAreRefused := by
  intro s hidle
  rw [← Config.valid_iff, Bool.not_eq_true]
  exact ⟨step_ne_badConfig hidle, step_badConfig hidle, rfl, rfl, rfl⟩

/-- Settles O8: past the end there is no word to decode, and a cut-off BLOCK is refused wherever it is met. -/
theorem stepAtTheProgramsEnd : Obligations.StepAtTheProgramsEnd := by
  refine ⟨fun s hidle hvalid hend => ?_, fun s hidle hvalid hd => step_truncated hidle hvalid hd,
    fun p s hp => load_of_not_programOk hp s⟩
  exact step_empty hidle hvalid ((decode_empty _).2 (List.drop_eq_nil_of_le hend))

end Machine

end Sys2Proof
end

section
/-! PROOFS. How every operation ends, said once (spec/10_state.md R51): the states an operation can answer, whatever the
panel and the storage do. -/

namespace Sys2Proof.Machine

/-- The state that an operation with working registers answers when its body leaves `u` (R31, R51). -/
def workEnded (u : State) : State := { forgetWork u with phase := .idle }

/-- The state from which DISPLAY renders: INIT runs first when it is due (R170). -/
def displayStart (s : State) : State := if s.initialized then s else initBody s

/-! RENDER and DISPLAY by the end of the render. -/

theorem exec_render_notInitialized {s : State} (h : s.initialized = false) :
    exec .render s = .next (workEnded (setResult .notInitialized s)) := by
  simp [exec, execRender, renderChecked, h, raise, Ran.state, endWork, endOp, workEnded]

theorem exec_render_done {s u : State} (h : s.initialized = true) (hu : renderBody s = .done u) :
    exec .render s = .next (workEnded (setResult .ok u)) := by
  simp [exec, execRender, renderChecked, h, hu, Ran.andThen, Ran.state, endWork, endOp, workEnded]

theorem exec_render_raised {s u : State} (h : s.initialized = true) (hu : renderBody s = .raised u) :
    exec .render s = .next (workEnded u) := by
  simp [exec, execRender, renderChecked, h, hu, Ran.andThen, Ran.state, endWork, endOp, workEnded]

theorem exec_display_done {s u : State} (hu : renderBody (displayStart s) = .done u) :
    exec .display s = .next (workEnded (cycleBody u)) := by
  rw [displayStart] at hu
  simp [exec, execDisplay, displayBody, hu, Ran.andThen, Ran.state, endWork, endOp, workEnded]

theorem exec_display_raised {s u : State} (hu : renderBody (displayStart s) = .raised u) :
    exec .display s = .next (workEnded u) := by
  rw [displayStart] at hu
  simp [exec, execDisplay, displayBody, hu, Ran.andThen, Ran.state, endWork, endOp, workEnded]

/-- `OpEnds s i t`: operation `i`, taken in state `s`, answers `t`. One constructor per operation and way of ending. -/
inductive OpEnds (s : State) : Instr → State → Prop where
  | nop (imm : Byte) : OpEnds s (.nop imm) { s with phase := .idle }
  | sel (t : Target) : OpEnds s (selInstr t) { s with
      csm := t.hasM, css := t.hasS, result := ResultCode.ok.code, phase := .idle
      trace := s.trace ++ selEvents s.cfg s.csm s.css t }
  | desel (t : Target) : OpEnds s (deselInstr t) { s with
      csm := s.csm && !t.hasM, css := s.css && !t.hasS, result := ResultCode.ok.code, phase := .idle
      trace := s.trace ++ deselEvents s.cfg s.csm s.css t }
  | cmd (c : Byte) : OpEnds s (.cmd c) (rawTransfer s.cfg.dcCmd [.xfer s.cfg.dcCmd s.sel c] s)
  | data (d : Byte) : OpEnds s (.data d) (rawTransfer s.cfg.dcData [.xfer s.cfg.dcData s.sel d] s)
  | block (p : List Byte) :
      OpEnds s (.block p) (rawTransfer s.cfg.dcData (p.map fun b => .xfer s.cfg.dcData s.sel b) s)
  | rstp : OpEnds s .rstp { s with
      rst := ((s.cfg.resetSeq.getLast?).map ResetStep.level).getD s.rst, initialized := false, renderOk := false
      power := .off, result := ResultCode.ok.code, phase := .idle, trace := s.trace ++ resetEvents s.cfg }
  | bwait (levels : List Level) (o : Wait) (env' : Env) : OpEnds s .bwait { afterPolls levels o env' s with
      result := (waitResult (o = .timedOut)).code, phase := .idle }
  | init : OpEnds s .init (workEnded (setResult .ok (initBody s)))
  | cycleRefused (r : ResultCode) (hr : r = .notInitialized ∨ r = .noValidRender) :
      OpEnds s .cycle (workEnded (setResult r s))
  | cycleRun (hinit : s.initialized = true) (w1 w2 w3 : List Level) (o1 o2 o3 : Wait) (env' : Env) :
      OpEnds s .cycle (workEnded (afterCycle w1 w2 w3 o1 o2 o3 env' s))
  | renderRefused (hinit : s.initialized = false) : OpEnds s .render (workEnded (setResult .notInitialized s))
  | renderDone (hinit : s.initialized = true) (u : State) (hu : RenderEnds s (.done u)) :
      OpEnds s .render (workEnded (setResult .ok u))
  | renderRaised (hinit : s.initialized = true) (u : State) (hu : RenderEnds s (.raised u)) :
      OpEnds s .render (workEnded u)
  | displayRun (u : State) (hu : RenderEnds (displayStart s) (.done u)) (w1 w2 w3 : List Level) (o1 o2 o3 : Wait)
      (env' : Env) : OpEnds s .display (workEnded (afterCycle w1 w2 w3 o1 o2 o3 env' u))
  | displayRaised (u : State) (hu : RenderEnds (displayStart s) (.raised u)) : OpEnds s .display (workEnded u)
  | rdstat (k : Byte) : OpEnds s (.rdstat k) { s with
      rdata := statusValue k s, trace := s.trace ++ [.hostread (statusValue k s)], phase := .idle }

/-! Every operation ends in one of these ways. -/

theorem opEnds_bwait (s : State) : ∃ t, exec .bwait s = .next t ∧ OpEnds s .bwait t := by
  obtain ⟨levels, o, env', -, hexec⟩ := exec_bwait_spec s
  refine ⟨_, hexec, ?_⟩
  have hcode : (if o = .timedOut then 0x01#8 else 0x00#8) = (waitResult (o = .timedOut)).code := by
    simp [waitResult_code]
  rw [hcode]
  exact .bwait levels o env'

theorem opEnds_cycle (s : State) : ∃ t, exec .cycle s = .next t ∧ OpEnds s .cycle t := by
  cases hinit : s.initialized with
  | false => exact ⟨_, exec_cycle_notInitialized hinit, .cycleRefused _ (.inl rfl)⟩
  | true =>
    cases hrender : s.renderOk with
    | false => exact ⟨_, exec_cycle_noValidRender hinit hrender, .cycleRefused _ (.inr rfl)⟩
    | true =>
      obtain ⟨w1, w2, w3, o1, o2, o3, env', -, -, -, hbody⟩ := cycleBody_spec s
      refine ⟨_, exec_cycle_accepted hinit hrender, ?_⟩
      rw [hbody]
      exact .cycleRun hinit w1 w2 w3 o1 o2 o3 env'

theorem opEnds_render (s : State) : ∃ t, exec .render s = .next t ∧ OpEnds s .render t := by
  have hends := renderBody_ends s
  cases hinit : s.initialized with
  | false => exact ⟨_, exec_render_notInitialized hinit, .renderRefused hinit⟩
  | true =>
    cases hbody : renderBody s with
    | done u => exact ⟨_, exec_render_done hinit hbody, .renderDone hinit u (hbody ▸ hends)⟩
    | raised u => exact ⟨_, exec_render_raised hinit hbody, .renderRaised hinit u (hbody ▸ hends)⟩

theorem opEnds_display (s : State) : ∃ t, exec .display s = .next t ∧ OpEnds s .display t := by
  have hends := renderBody_ends (displayStart s)
  cases hbody : renderBody (displayStart s) with
  | raised u => exact ⟨_, exec_display_raised hbody, .displayRaised u (hbody ▸ hends)⟩
  | done u =>
    obtain ⟨w1, w2, w3, o1, o2, o3, env', -, -, -, hcycle⟩ := cycleBody_spec u
    refine ⟨_, exec_display_done hbody, ?_⟩
    rw [hcycle]
    exact .displayRun u (hbody ▸ hends) w1 w2 w3 o1 o2 o3 env'

theorem exec_opEnds (i : Instr) (s : State) : ∃ t, exec i s = .next t ∧ OpEnds s i t := by
  cases i with
  | nop imm => exact ⟨_, exec_nop_eq imm s, .nop imm⟩
  | selM => exact ⟨_, exec_selInstr_eq .master s, .sel .master⟩
  | selS => exact ⟨_, exec_selInstr_eq .slave s, .sel .slave⟩
  | selBoth => exact ⟨_, exec_selInstr_eq .both s, .sel .both⟩
  | deselM => exact ⟨_, exec_deselInstr_eq .master s, .desel .master⟩
  | deselS => exact ⟨_, exec_deselInstr_eq .slave s, .desel .slave⟩
  | deselBoth => exact ⟨_, exec_deselInstr_eq .both s, .desel .both⟩
  | cmd c => exact ⟨_, exec_cmd_eq c s, .cmd c⟩
  | data d => exact ⟨_, exec_data_eq d s, .data d⟩
  | block p => exact ⟨_, exec_block_eq p s, .block p⟩
  | rstp => exact ⟨_, exec_rstp_eq s, .rstp⟩
  | bwait => exact opEnds_bwait s
  | init => exact ⟨_, exec_init_eq s, .init⟩
  | render => exact opEnds_render s
  | cycle => exact opEnds_cycle s
  | display => exact opEnds_display s
  | rdstat k => exact ⟨_, exec_rdstat_eq k s, .rdstat k⟩

/-- What an operation answers is one of its ends. -/
theorem opEnds_of_exec {i : Instr} {s t : State} (h : exec i s = .next t) : OpEnds s i t := by
  obtain ⟨t', h', hends⟩ := exec_opEnds i s
  obtain rfl : t = t' := Host.Outcome.next.inj (h.symm.trans h')
  exact hends

end Sys2Proof.Machine
end

section
/-! PROOFS. What each operation may write (spec/10_state.md sections 3, 5 and 6, spec/60_exceptions.md sections 1 and 2), read
off the ways it can end. -/

namespace Sys2Proof.Machine

/-! Frames of the parts. -/

/-- A render writes the lines, `render_ok`, `result`, `rprog`, the trace and the working state alone (R49). -/
theorem RenderKeeps.eq_update {s t : State} (h : RenderKeeps s t) :
    t = { s with csm := t.csm, css := t.css, dc := t.dc, renderOk := t.renderOk, result := t.result, rprog := t.rprog
                 trace := t.trace, work := t.work, env := t.env, openFile := t.openFile } := by
  obtain ⟨hcfg, hprog, hpc, hrst, hlast, hvalid, hinit, hpower, htout, htocnt, hrdata, hphase, -, -⟩ := h
  cases t
  simp_all

/-- A lazy INIT writes what INIT may write, and the block is initialised after it (R170). -/
theorem displayStart_eq_update (s : State) :
    displayStart s = { s with
      rst := (displayStart s).rst, csm := (displayStart s).csm, css := (displayStart s).css, dc := (displayStart s).dc
      initialized := true, power := (displayStart s).power, renderOk := (displayStart s).renderOk
      trace := (displayStart s).trace, work := (displayStart s).work } := by
  unfold displayStart
  split
  next hinit => rw [← hinit]
  next => rw [initBody_eq]

theorem displayStart_initialized (s : State) : (displayStart s).initialized = true := by
  rw [displayStart_eq_update]

/-- Settles O45: each end of an operation is written as an update of the fields it may write; for RENDER and DISPLAY these
are the frames of the render, of the lazy INIT and of the cycle. -/
theorem operationsWriteOnlyTheirState : Obligations.OperationsWriteOnlyTheirState := by
  intro i s t h
  cases opEnds_of_exec h with
  | sel tgt => cases tgt <;> exact ⟨rfl, rfl⟩
  | desel tgt => cases tgt <;> exact ⟨rfl, rfl⟩
  | init => exact ⟨rfl, by rw [initBody_eq]; rfl⟩
  | renderDone _ u hu => exact ⟨rfl, by rw [hu.1.eq_update]; rfl⟩
  | renderRaised _ u hu => exact ⟨rfl, by rw [hu.1.eq_update]; rfl⟩
  | displayRun u hu => exact ⟨rfl, by rw [hu.1.eq_update, displayStart_eq_update]; rfl⟩
  | displayRaised u hu => exact ⟨rfl, by rw [hu.1.eq_update, displayStart_eq_update]; rfl⟩
  | _ => exact ⟨rfl, rfl⟩

/-- No operation writes the configuration, the program or `pc`, and each ends idle (R10, R51). -/
theorem exec_keeps_program {i : Instr} {s t : State} (h : exec i s = .next t) :
    t.cfg = s.cfg ∧ t.prog = s.prog ∧ t.pc = s.pc ∧ t.phase = .idle := by
  obtain ⟨hidle, hframe⟩ := operationsWriteOnlyTheirState i s t h
  cases i <;> exact ⟨by rw [hframe], by rw [hframe], by rw [hframe], hidle⟩

/-! The trace. -/

theorem newEvents_of_trace {s t : State} {evs : List Event} (h : t.trace = s.trace ++ evs) : newEvents s t = evs := by
  rw [newEvents, h, List.drop_left]

theorem displayStart_trace (s : State) :
    (displayStart s).trace = s.trace ++ if s.initialized then [] else initEvents s.cfg s.csm s.css := by
  unfold displayStart
  split
  · simp
  · rw [initBody_eq]

/-- A render after a lazy INIT appends events that are no BUSY samples (R137, R204). -/
theorem RenderKeeps.trace_of_displayStart {s u : State} (h : RenderKeeps (displayStart s) u) :
    ∃ evs, u.trace = s.trace ++ evs ∧ ∀ e ∈ evs, e.isSample = false := by
  obtain ⟨evs, htrace, hquiet⟩ := h.grows
  refine ⟨_, by rw [htrace, displayStart_trace, List.append_assoc], fun e he => ?_⟩
  rcases List.mem_append.1 he with he | he
  · split at he
    · exact absurd he List.not_mem_nil
    · exact initEvents_no_sample _ _ _ e he
  · exact hquiet e he

/-- The trace grows, and outside the operations that wait no new event is a BUSY sample (R32, R204). -/
theorem OpEnds.trace_grows {i : Instr} {s t : State} (h : OpEnds s i t) :
    ∃ evs, t.trace = s.trace ++ evs
      ∧ (i ≠ .bwait → i ≠ .cycle → i ≠ .display → ∀ e ∈ evs, e.isSample = false) := by
  cases h with
  | nop imm => exact ⟨[], by simp, by simp⟩
  | sel tgt => exact ⟨_, rfl, fun _ _ _ => selEvents_no_sample _ _ _ _⟩
  | desel tgt => exact ⟨_, rfl, fun _ _ _ => deselEvents_no_sample _ _ _ _⟩
  | cmd c => exact ⟨_, rfl, by simp [Event.isSample]⟩
  | data d => exact ⟨_, rfl, by simp [Event.isSample]⟩
  | block p => exact ⟨_, rfl, by simp [Event.isSample]⟩
  | rstp => exact ⟨_, rfl, fun _ _ _ => resetEventsFrom_no_sample 0 _⟩
  | bwait => exact ⟨_, rfl, fun hne => absurd rfl hne⟩
  | init => exact ⟨_, by rw [initBody_eq]; rfl, fun _ _ _ => initEvents_no_sample s.cfg s.csm s.css⟩
  | cycleRefused => exact ⟨[], (List.append_nil _).symm, by simp⟩
  | cycleRun => exact ⟨_, rfl, fun _ hne => absurd rfl hne⟩
  | renderRefused => exact ⟨[], (List.append_nil _).symm, by simp⟩
  | renderDone _ u hu =>
    obtain ⟨evs, htrace, hquiet⟩ := hu.1.grows
    exact ⟨evs, htrace, fun _ _ _ => hquiet⟩
  | renderRaised _ u hu =>
    obtain ⟨evs, htrace, hquiet⟩ := hu.1.grows
    exact ⟨evs, htrace, fun _ _ _ => hquiet⟩
  | displayRun u hu w1 w2 w3 =>
    obtain ⟨evs, htrace, -⟩ := hu.1.trace_of_displayStart
    have happend := List.append_assoc s.trace evs (cycleEvents u.cfg u.csm u.css w1 w2 w3)
    rw [← htrace] at happend
    exact ⟨_, happend, fun _ _ hne => absurd rfl hne⟩
  | displayRaised u hu =>
    obtain ⟨evs, htrace, hquiet⟩ := hu.1.trace_of_displayStart
    exact ⟨evs, htrace, fun _ _ _ => hquiet⟩
  | rdstat k => exact ⟨_, rfl, by simp [Event.isSample]⟩

/-- Settles O50: the events of the other operations are line changes, transfers, delays, storage events and host reads. -/
theorem samplesOnlyInBusyWaits : Obligations.SamplesOnlyInBusyWaits := by
  intro i s t h hbwait hcycle hdisplay
  obtain ⟨evs, htrace, hquiet⟩ := (opEnds_of_exec h).trace_grows
  rw [newEvents_of_trace htrace]
  exact hquiet hbwait hcycle hdisplay

/-- Settles O43: an illegal word emits nothing, and an operation only appends. -/
theorem traceOnlyGrows : Obligations.TraceOnlyGrows := by
  intro s t h
  obtain ⟨-, -, ⟨-, rfl⟩ | ⟨w, rest, -, -, hill⟩ | ⟨i, rest, -, -, -, -, hexec⟩⟩ := step_cases h
  · exact List.prefix_rfl
  · rw [execIllegal_eq, Host.Outcome.next.injEq] at hill
    rw [← hill]
  · obtain ⟨evs, htrace, -⟩ := (opEnds_of_exec hexec).trace_grows
    exact ⟨evs, htrace.symm⟩

/-! The panel's bookkeeping and the result codes. -/

/-- A render after a lazy INIT is that of an initialised block (R170). -/
theorem RenderKeeps.initialized_of_displayStart {s u : State} (h : RenderKeeps (displayStart s) u) :
    u.initialized = true :=
  h.initialized.trans (displayStart_initialized s)

/-- RSTP ends with the block not initialised, INIT and DISPLAY with it initialised, and the others keep it (R35). -/
theorem OpEnds.initialized_cases {i : Instr} {s t : State} (h : OpEnds s i t) :
    t.initialized = s.initialized ∨ (t.initialized = false ∧ i = .rstp)
      ∨ (t.initialized = true ∧ (i = .init ∨ i = .display)) := by
  cases h with
  | rstp => exact .inr (.inl ⟨rfl, rfl⟩)
  | init => exact .inr (.inr ⟨rfl, .inl rfl⟩)
  | renderDone _ u hu => exact .inl hu.1.initialized
  | renderRaised _ u hu => exact .inl hu.1.initialized
  | displayRun u hu => exact .inr (.inr ⟨hu.1.initialized_of_displayStart, .inr rfl⟩)
  | displayRaised u hu => exact .inr (.inr ⟨hu.1.initialized_of_displayStart, .inr rfl⟩)
  | _ => exact .inl rfl

/-- Settles O46: an operation that changes `initialized` is RSTP where it clears it, and INIT or DISPLAY where it sets it. -/
theorem initializedOnlyByInit : Obligations.InitializedOnlyByInit := by
  intro i s t h
  rcases (opEnds_of_exec h).initialized_cases with hkept | ⟨hclear, hi⟩ | ⟨hset, hi⟩
  · exact ⟨fun hs ht => absurd (hs.symm.trans (hkept.symm.trans ht)) Bool.noConfusion,
      fun hs ht => absurd (hs.symm.trans (hkept.symm.trans ht)) Bool.noConfusion⟩
  · exact ⟨fun _ ht => absurd (hclear.symm.trans ht) Bool.noConfusion, fun _ _ => hi⟩
  · exact ⟨fun _ _ => hi, fun _ ht => absurd (hset.symm.trans ht) Bool.noConfusion⟩

/-- Waits leave one of two codes (R134, R139). -/
theorem waitResult_code_mem (b : Bool) : (waitResult b).code ∈ [0x00#8, 0x01#8] := by
  cases b <;> decide

/-- A failed render leaves `render_ok` clear and one of its three codes (R160, R165). -/
theorem RenderEnds.raised_result {s u : State} (h : RenderEnds s (.raised u)) :
    u.renderOk = false ∧ u.result ∈ [0x10#8, 0x11#8, 0x12#8] := by
  obtain ⟨-, -, hok, hresult⟩ := h
  exact ⟨hok, hresult⟩

/-- The codes of a failed render are not those of a completed one or of its cycle (R200). -/
theorem render_error_ne {b : Byte} (h : b ∈ [0x10#8, 0x11#8, 0x12#8]) : b ≠ 0x00#8 ∧ b ≠ 0x01#8 := by
  revert b
  decide

theorem RenderEnds.done_renderOk {s u : State} (h : RenderEnds s (.done u)) : u.renderOk = true := h.2.2.2

/-- Settles O47: a completed render sets `render_ok`, which the cycle after it keeps; a failed one leaves it clear, with the
code of its error. -/
theorem renderOkOnlyByRender : Obligations.RenderOkOnlyByRender := by
  intro i s t h
  cases opEnds_of_exec h with
  | sel tgt => cases tgt <;> rfl
  | desel tgt => cases tgt <;> rfl
  | init =>
    show (initBody s).renderOk = false
    rw [initBody_eq]
  | renderRefused hinit => exact fun hne => absurd (hinit.symm.trans hne) Bool.noConfusion
  | renderDone _ u hu => exact fun _ => iff_of_true hu.done_renderOk rfl
  | renderRaised _ u hu =>
    obtain ⟨hok, hresult⟩ := hu.raised_result
    exact fun _ => iff_of_false (Bool.not_eq_true _ ▸ hok) (render_error_ne hresult).1
  | displayRun u hu =>
    have hcode := waitResult_code_mem
    simp only [List.mem_cons, List.not_mem_nil, or_false] at hcode
    exact iff_of_true hu.done_renderOk (hcode _)
  | displayRaised u hu =>
    obtain ⟨hok, hresult⟩ := hu.raised_result
    obtain ⟨hne0, hne1⟩ := render_error_ne hresult
    exact iff_of_false (Bool.not_eq_true _ ▸ hok) (not_or.2 ⟨hne0, hne1⟩)
  | _ => rfl

/-- Settles O48: each end of an operation writes one code, and those of NOP and RDSTAT write none. -/
theorem resultCodesByOperation : Obligations.ResultCodesByOperation := by
  intro i s t h
  cases opEnds_of_exec h with
  | sel tgt => cases tgt <;> rfl
  | desel tgt => cases tgt <;> rfl
  | bwait => exact waitResult_code_mem _
  | cycleRefused r hr =>
    obtain rfl | rfl := hr
    · exact List.mem_append_right [0x00#8, 0x01#8] List.mem_cons_self
    · exact List.mem_append_right [0x00#8, 0x01#8, 0x20#8] (List.mem_singleton_self 0x21#8)
  | cycleRun => exact List.mem_append_left [0x20#8, 0x21#8] (waitResult_code_mem _)
  | renderRefused => exact List.mem_append_right [0x00#8, 0x10#8, 0x11#8, 0x12#8] (List.mem_singleton_self 0x20#8)
  | renderDone => exact List.mem_cons_self
  | renderRaised _ u hu => exact List.mem_cons_of_mem _ (List.mem_append_left [0x20#8] hu.raised_result.2)
  | displayRun => exact List.mem_append_left [0x10#8, 0x11#8, 0x12#8] (waitResult_code_mem _)
  | displayRaised u hu => exact List.mem_append_right [0x00#8, 0x01#8] hu.raised_result.2
  | _ => rfl

/-! The time-out counter. -/

/-- A wait that times out counts itself once, up to the counter's greatest value (R17, R38). -/
theorem toNat_saturatingSucc (n : BitVec 16) : (saturatingSucc n).toNat = min (n.toNat + 1) 0xFFFF := by
  simp only [saturatingSucc, BitVec.toNat_ofNat]
  omega

/-- A row of waits counts up, by at most one for each (R38). -/
theorem countTimeouts_bounds (n : BitVec 16) (os : List Wait) :
    n.toNat ≤ (countTimeouts n os).toNat ∧ (countTimeouts n os).toNat ≤ n.toNat + os.length := by
  have hcount : os.count .timedOut ≤ os.length := List.count_le_length
  rw [countTimeouts_eq, BitVec.toNat_ofNat]
  omega

/-- An operation's own waits are all that the counter counts (R38). -/
theorem OpEnds.tocnt_eq {i : Instr} {s t : State} (h : OpEnds s i t) :
    ∃ os : List Wait, t.tocnt = countTimeouts s.tocnt os ∧ os.length ≤ 3 ∧ (i = .bwait → os.length ≤ 1)
      ∧ (i ≠ .bwait → i ≠ .cycle → i ≠ .display → t.tocnt = s.tocnt ∧ t.tout = s.tout) := by
  have no_wait (htocnt : t.tocnt = s.tocnt) (htout : t.tout = s.tout) : ∃ os : List Wait,
      t.tocnt = countTimeouts s.tocnt os ∧ os.length ≤ 3 ∧ (i = .bwait → os.length ≤ 1)
        ∧ (i ≠ .bwait → i ≠ .cycle → i ≠ .display → t.tocnt = s.tocnt ∧ t.tout = s.tout) :=
    ⟨[], htocnt, by simp, by simp, fun _ _ _ => ⟨htocnt, htout⟩⟩
  have start_tocnt : (displayStart s).tocnt = s.tocnt := by rw [displayStart_eq_update]
  cases h with
  | bwait levels o => exact ⟨[o], rfl, by simp⟩
  | cycleRun _ w1 w2 w3 o1 o2 o3 => exact ⟨[o1, o2, o3], rfl, by simp⟩
  | init => exact no_wait (by rw [initBody_eq]; rfl) (by rw [initBody_eq]; rfl)
  | renderDone _ u hu => exact no_wait hu.1.tocnt hu.1.tout
  | renderRaised _ u hu => exact no_wait hu.1.tocnt hu.1.tout
  | displayRun u hu w1 w2 w3 o1 o2 o3 =>
    exact ⟨[o1, o2, o3], congrArg (countTimeouts · [o1, o2, o3]) (hu.1.tocnt.trans start_tocnt), by simp⟩
  | displayRaised u hu => exact ⟨[], hu.1.tocnt.trans start_tocnt, by simp⟩
  | _ => exact no_wait rfl rfl

/-- Settles O49: an operation counts its own waits, one for BWAIT, three for a cycle and none for the others. -/
theorem timeoutCounterSaturates : Obligations.TimeoutCounterSaturates := by
  intro i s t h
  obtain ⟨os, htocnt, hlen, hbwait, hnone⟩ := (opEnds_of_exec h).tocnt_eq
  obtain ⟨hle, hbound⟩ := countTimeouts_bounds s.tocnt os
  rw [← htocnt] at hle hbound
  exact ⟨hle, by omega, fun hi => by have := hbwait hi; omega, hnone⟩

end Sys2Proof.Machine
end

section
/-! PROOFS. The invariant of a run and the run's end (spec/10_state.md sections 1, 5, 7 and 8, spec/60_exceptions.md section 1,
spec/70_reset_and_hazards.md section 4). -/

namespace Sys2Proof.Machine

/-! The part of the invariant that speaks of the block alone. Operations keep it from their start, where the sequencer is not
idle, to their end. -/

/-- `Inv` without the configuration, the program and the phase. -/
structure BlockInv (s : State) : Prop where
  fileClosed : s.openFile = none
  powerOff : s.power = .off
  renderInit : s.renderOk = true → s.initialized = true
  resultKnown : s.result ∈ knownResults
  rowsInPanel : s.rprog.rows.toNat ≤ s.cfg.h
  busyUnsampled : s.busyValid = false → s.busyLast = .low
  timeoutCounted : s.tout = true → s.tocnt ≠ 0#16

theorem Inv.blockInv {s : State} (h : Inv s) : BlockInv s :=
  ⟨h.fileClosed, h.powerOff, h.renderInit, h.resultKnown, h.rowsInPanel, h.busyUnsampled, h.timeoutCounted⟩

/-- The invariant of the whole from that of the block and of the program's rest. -/
theorem BlockInv.inv {s : State} (h : BlockInv s) (hvalid : s.cfg.valid = true) (hidle : s.phase = .idle)
    (hprog : programOk (s.prog.drop s.pc) = true) (hpc : s.pc ≤ s.prog.length) : Inv s :=
  ⟨hvalid, hidle, hprog, hpc, h.fileClosed, h.powerOff, h.renderInit, h.resultKnown, h.rowsInPanel, h.busyUnsampled,
    h.timeoutCounted⟩

/-- Every named code is a known one (R200). -/
theorem ResultCode.code_mem_knownResults (r : ResultCode) : r.code ∈ knownResults := by
  cases r <;> decide

theorem BlockInv.setResult {s : State} (h : BlockInv s) (r : ResultCode) : BlockInv (setResult r s) :=
  ⟨h.fileClosed, h.powerOff, h.renderInit, r.code_mem_knownResults, h.rowsInPanel, h.busyUnsampled, h.timeoutCounted⟩

theorem BlockInv.workEnded {s : State} (h : BlockInv s) : BlockInv (workEnded s) :=
  ⟨h.fileClosed, h.powerOff, h.renderInit, h.resultKnown, h.rowsInPanel, h.busyUnsampled, h.timeoutCounted⟩

theorem BlockInv.initBody {s : State} (h : BlockInv s) : BlockInv (initBody s) := by
  rw [initBody_eq]
  exact ⟨h.fileClosed, rfl, fun _ => rfl, h.resultKnown, h.rowsInPanel, h.busyUnsampled, h.timeoutCounted⟩

theorem BlockInv.displayStart {s : State} (h : BlockInv s) : BlockInv (displayStart s) := by
  unfold Machine.displayStart
  split
  · exact h
  · exact h.initBody

theorem BlockInv.rawTransfer {s : State} (h : BlockInv s) (dc : Level) (evs : List Event) :
    BlockInv (rawTransfer dc evs s) :=
  ⟨h.fileClosed, h.powerOff, fun hok => Bool.noConfusion hok, ResultCode.code_mem_knownResults .ok, h.rowsInPanel,
    h.busyUnsampled, h.timeoutCounted⟩

/-- A wait that has timed out has been counted (R38). -/
theorem saturatingSucc_ne_zero (n : BitVec 16) : saturatingSucc n ≠ 0#16 := by
  intro h
  have hnat := toNat_saturatingSucc n
  rw [h, BitVec.toNat_ofNat] at hnat
  omega

theorem BlockInv.afterPolls {s : State} (h : BlockInv s) (levels : List Level) (o : Wait) (env' : Env) :
    BlockInv (afterPolls levels o env' s) := by
  refine ⟨h.fileClosed, h.powerOff, h.renderInit, h.resultKnown, h.rowsInPanel, fun hvalid => ?_, fun htout => ?_⟩
  · obtain ⟨hbefore, hnone⟩ : s.busyValid = false ∧ levels = [] := by simpa [Machine.afterPolls] using hvalid
    simpa [Machine.afterPolls, hnone] using h.busyUnsampled hbefore
  · obtain rfl : o = .timedOut := of_decide_eq_true htout
    exact saturatingSucc_ne_zero s.tocnt

theorem BlockInv.afterCycle {s : State} (h : BlockInv s) (hinit : s.initialized = true) (w1 w2 w3 : List Level)
    (o1 o2 o3 : Wait) (env' : Env) : BlockInv (afterCycle w1 w2 w3 o1 o2 o3 env' s) := by
  refine ⟨h.fileClosed, rfl, fun _ => hinit, (waitResult _).code_mem_knownResults, h.rowsInPanel, fun hvalid => ?_,
    fun htout => ?_⟩
  · obtain ⟨⟨⟨hbefore, h1⟩, h2⟩, h3⟩ : ((s.busyValid = false ∧ w1 = []) ∧ w2 = []) ∧ w3 = [] := by
      simpa [Machine.afterCycle] using hvalid
    simpa [Machine.afterCycle, h1, h2, h3] using h.busyUnsampled hbefore
  · obtain rfl : o3 = .timedOut := of_decide_eq_true htout
    exact saturatingSucc_ne_zero (countTimeouts s.tocnt [o1, o2])

/-- A render keeps the fields that it may not write, and the rest is as its end says. -/
theorem BlockInv.render {s u : State} (h : BlockInv s) (k : RenderKeeps s u) (hfile : u.openFile = none)
    (hrender : u.renderOk = true → u.initialized = true) (hresult : u.result ∈ knownResults) : BlockInv u := by
  refine ⟨hfile, k.power.trans h.powerOff, hrender, hresult, k.rows h.rowsInPanel, fun hvalid => ?_, fun htout => ?_⟩
  · rw [k.busyValid] at hvalid
    rw [k.busyLast]
    exact h.busyUnsampled hvalid
  · rw [k.tout] at htout
    rw [k.tocnt]
    exact h.timeoutCounted htout

theorem BlockInv.renderDone {s u : State} (h : BlockInv s) (hinit : s.initialized = true) (hu : RenderEnds s (.done u)) :
    BlockInv u := by
  obtain ⟨k, hfile, hresult, -⟩ := hu
  exact h.render k hfile (fun _ => k.initialized.trans hinit) (hresult ▸ h.resultKnown)

theorem BlockInv.renderRaised {s u : State} (h : BlockInv s) (hu : RenderEnds s (.raised u)) : BlockInv u := by
  obtain ⟨hok, hresult⟩ := hu.raised_result
  have hsub : [0x10#8, 0x11#8, 0x12#8] ⊆ knownResults := by decide
  exact h.render hu.1 hu.2.1 (fun ht => absurd (hok.symm.trans ht) Bool.noConfusion) (hsub hresult)

/-- Every operation keeps the block's part of the invariant. -/
theorem OpEnds.keeps_blockInv {i : Instr} {s t : State} (h : OpEnds s i t) (hs : BlockInv s) : BlockInv t := by
  have lines (csm css : Bool) (evs : List Event) : BlockInv { s with
      csm := csm, css := css, result := ResultCode.ok.code, phase := .idle, trace := evs } :=
    ⟨hs.fileClosed, hs.powerOff, hs.renderInit, ResultCode.code_mem_knownResults .ok, hs.rowsInPanel, hs.busyUnsampled,
      hs.timeoutCounted⟩
  cases h with
  | nop imm =>
    exact ⟨hs.fileClosed, hs.powerOff, hs.renderInit, hs.resultKnown, hs.rowsInPanel, hs.busyUnsampled, hs.timeoutCounted⟩
  | sel t => exact lines _ _ _
  | desel t => exact lines _ _ _
  | cmd c => exact hs.rawTransfer _ _
  | data d => exact hs.rawTransfer _ _
  | block p => exact hs.rawTransfer _ _
  | rstp =>
    exact ⟨hs.fileClosed, rfl, fun hok => Bool.noConfusion hok, ResultCode.code_mem_knownResults .ok, hs.rowsInPanel,
      hs.busyUnsampled, hs.timeoutCounted⟩
  | bwait levels o env' =>
    obtain ⟨hfile, hpower, hrender, -, hrows, hbusy, htimeout⟩ := hs.afterPolls levels o env'
    exact ⟨hfile, hpower, hrender, (waitResult _).code_mem_knownResults, hrows, hbusy, htimeout⟩
  | init => exact (hs.initBody.setResult .ok).workEnded
  | cycleRefused r => exact (hs.setResult r).workEnded
  | cycleRun hinit => exact (hs.afterCycle hinit _ _ _ _ _ _ _).workEnded
  | renderRefused => exact (hs.setResult .notInitialized).workEnded
  | renderDone hinit u hu => exact ((hs.renderDone hinit hu).setResult .ok).workEnded
  | renderRaised _ u hu => exact (hs.renderRaised hu).workEnded
  | displayRun u hu =>
    have hrendered := hs.displayStart.renderDone (displayStart_initialized s) hu
    exact (hrendered.afterCycle hu.1.initialized_of_displayStart _ _ _ _ _ _ _).workEnded
  | displayRaised u hu => exact (hs.displayStart.renderRaised hu).workEnded
  | rdstat k =>
    exact ⟨hs.fileClosed, hs.powerOff, hs.renderInit, hs.resultKnown, hs.rowsInPanel, hs.busyUnsampled, hs.timeoutCounted⟩

/-! The step. -/

theorem BlockInv.takeOp {s : State} (h : BlockInv s) (i : Instr) : BlockInv (takeOp i s) :=
  ⟨h.fileClosed, h.powerOff, h.renderInit, h.resultKnown, h.rowsInPanel, h.busyUnsampled, h.timeoutCounted⟩

/-- What a step of an operation keeps, and where it leaves `pc`. -/
theorem exec_takeOp_keeps_program {i : Instr} {s t : State} (h : exec i (takeOp i s) = .next t) :
    t.cfg = s.cfg ∧ t.prog = s.prog ∧ t.pc = s.pc + i.words ∧ t.phase = .idle :=
  exec_keeps_program h

/-- Settles O40: an illegal word writes `result` and `pc`; an operation keeps the block's part of the invariant and the
program, and after its words the program's rest is well-formed again. -/
theorem stepKeepsTheInvariant : Obligations.StepKeepsTheInvariant := by
  intro s t hs h
  have hblock := hs.blockInv
  obtain ⟨-, -, ⟨-, rfl⟩ | ⟨w, rest, hd, hword, hill⟩ | ⟨i, rest, hd, hrest, hlen, -, hexec⟩⟩ := step_cases h
  · exact hs
  · rw [execIllegal_eq, Host.Outcome.next.injEq] at hill
    have hrest : s.prog.drop (s.pc + 1) = rest := by rw [← List.drop_drop, hword, List.drop_one, List.tail_cons]
    have hlt : s.pc < s.prog.length := Nat.lt_of_not_le fun hend => by
      rw [List.drop_eq_nil_of_le hend] at hword
      exact nomatch hword
    subst hill
    refine BlockInv.inv ?_ hs.cfgValid rfl ?_ hlt
    · exact ⟨hs.fileClosed, hs.powerOff, hs.renderInit, ResultCode.code_mem_knownResults .illegalOp, hs.rowsInPanel,
        hs.busyUnsampled, hs.timeoutCounted⟩
    · show programOk (s.prog.drop (s.pc + 1)) = true
      rw [hrest, ← programOk_illegal _ _ _ hd]
      exact hs.progOk
  · obtain ⟨hcfg, hprog, hpc, hidle⟩ := exec_takeOp_keeps_program hexec
    refine BlockInv.inv ((opEnds_of_exec hexec).keeps_blockInv (hblock.takeOp i)) (hcfg ▸ hs.cfgValid) hidle ?_ ?_
    · rw [hprog, hpc, ← hrest, ← programOk_op _ _ _ hd]
      exact hs.progOk
    · rw [hprog, hpc]
      exact hlen

/-- Settles O44: only the taken words move `pc`, and no meaning writes a parameter. -/
theorem stepKeepsParametersAndCountsWords : Obligations.StepKeepsParametersAndCountsWords := by
  refine ⟨fun s t h => ?_, fun s => ⟨rfl, rfl⟩⟩
  obtain ⟨-, -, ⟨hend, rfl⟩ | ⟨w, rest, hd, -, hill⟩ | ⟨i, rest, hd, -, -, -, hexec⟩⟩ := step_cases h
  · rw [hend]
    exact ⟨rfl, rfl, rfl⟩
  · rw [execIllegal_eq, Host.Outcome.next.injEq] at hill
    rw [hd, ← hill]
    exact ⟨rfl, rfl, rfl⟩
  · obtain ⟨hcfg, hprog, hpc, -⟩ := exec_takeOp_keeps_program hexec
    rw [hd]
    exact ⟨hcfg, hprog, hpc⟩

/-! Runs. -/

/-- A step moves `pc`, unless no word is left (R30). -/
theorem step_moves_pc {s t : State} (h : step s = .next t) : s.prog.length ≤ t.pc ∨ s.pc < t.pc := by
  obtain ⟨-, -, ⟨hend, rfl⟩ | ⟨w, rest, -, -, hill⟩ | ⟨i, rest, -, -, -, hpos, hexec⟩⟩ := step_cases h
  · exact .inl (List.drop_eq_nil_iff.1 hend)
  · rw [execIllegal_eq, Host.Outcome.next.injEq] at hill
    rw [← hill]
    exact .inr (Nat.lt_succ_self s.pc)
  · obtain ⟨-, -, hpc, -⟩ := exec_takeOp_keeps_program hexec
    omega

/-- From every state of a run the step answers a next state: a well-formed program has no BLOCK that is cut off (R202). -/
theorem Inv.step_next {s : State} (h : Inv s) : ∃ t, step s = .next t := by
  refine Machine.step_next h.idle h.cfgValid fun hd => ?_
  exact absurd ((programOk_truncated _ hd).symm.trans h.progOk) Bool.noConfusion

/-- Settles O41: no BLOCK is cut off in a well-formed program, so the next operation is taken, and the step keeps `pc` inside
the program. -/
theorem noStepOfARunStops : Obligations.NoStepOfARunStops := by
  intro s hs
  obtain ⟨t, ht⟩ := hs.step_next
  obtain ⟨-, hprog, -⟩ := stepKeepsParametersAndCountsWords.1 s t ht
  exact ⟨t, ht, fun hpc => (step_moves_pc ht).elim hpc.trans_le id, hprog ▸ (stepKeepsTheInvariant s t hs ht).pcInside⟩

theorem run_succ {s t : State} (h : step s = .next t) (k : Nat) : core.run (k + 1) s = core.run k t := by
  simp only [Host.Core.run, show core.step s = .next t from h]

/-- As many steps as there are words left reach the program's end: each of them takes at least one (R246). -/
theorem run_ends (k : Nat) {s : State} (hs : Inv s) (hk : s.prog.length ≤ s.pc + k) :
    ∃ t, core.run k s = .next t ∧ t.ended = true ∧ Inv t := by
  induction k generalizing s with
  | zero =>
    have hpc : s.pc = s.prog.length := Nat.le_antisymm hs.pcInside hk
    exact ⟨s, rfl, by simp [State.ended, hpc, hs.idle], hs⟩
  | succ k ih =>
    obtain ⟨t, ht⟩ := hs.step_next
    have hmoves := step_moves_pc ht
    obtain ⟨-, hprog, -⟩ := stepKeepsParametersAndCountsWords.1 s t ht
    rw [run_succ ht]
    refine ih (stepKeepsTheInvariant s t hs ht) ?_
    rw [hprog]
    omega

/-- Settles O42: wherever `pc` is, no more words are left than the program has. -/
theorem everyRunEnds : Obligations.EveryRunEnds := fun s hs => run_ends s.prog.length hs (Nat.le_add_left _ _)

/-! Reset. -/

/-- The reset state of an accepted configuration (R50). -/
theorem inv_resetWith {c : Config} (h : c.valid = true) : Inv (State.resetWith c) :=
  ⟨h, rfl, rfl, Nat.le_refl 0, rfl, rfl, fun hok => Bool.noConfusion hok, ResultCode.code_mem_knownResults .ok,
    Nat.zero_le _, fun _ => rfl, fun htout => Bool.noConfusion htout⟩

/-- The configuration of log entry 2 obeys R7, whatever its OPEN parameters are. -/
theorem platform_valid : Config.platform.valid = true := by
  rw [Config.valid_iff]
  simp [Config.platform]

/-- A program that the block accepts starts a run (R30). -/
theorem inv_load {p : List Word} {s t : State} (hs : Inv s) (h : State.load p s = .next t) : Inv t := by
  cases hp : programOk p with
  | false =>
    rw [load_of_not_programOk hp] at h
    exact nomatch h
  | true =>
    rw [load_of_programOk hp, Host.Outcome.next.injEq] at h
    rw [← h]
    exact ⟨hs.cfgValid, hs.idle, hp, Nat.zero_le _, hs.fileClosed, hs.powerOff, hs.renderInit, hs.resultKnown, hs.rowsInPanel,
      hs.busyUnsampled, hs.timeoutCounted⟩

/-- Settles O39: R50's values meet the invariant, and a program that State.load accepts is well-formed from its first word. -/
theorem invariantHoldsAtReset : Obligations.InvariantHoldsAtReset :=
  ⟨inv_resetWith platform_valid, fun _ hc => ⟨inv_resetWith hc, fun _ _ h => inv_load (inv_resetWith hc) h⟩⟩

end Sys2Proof.Machine
end

section
/-! PROOFS. Panel transactions (spec/40_panelbus.md section 9, spec/30_encoding.md section 5) and the waits with pending BUSY
levels (spec/41_initializer.md). -/

namespace Sys2Proof.Machine

/-! Transactions. -/

/-- Transfers are counted by the predicates that hold of them. -/
theorem countP_xfers {q : Event → Bool} {x : Bool} (hq : ∀ dc sel b, q (.xfer dc sel b) = x) (dc : Level) (sel : Sel)
    (bs : List Byte) : (bs.map fun b => Event.xfer dc sel b).countP q = if x then bs.length else 0 := by
  rw [List.countP_map]
  cases x with
  | true => exact List.countP_eq_length.2 fun b _ => hq dc sel b
  | false => exact List.countP_eq_zero.2 fun b _ => Bool.eq_false_iff.1 (hq dc sel b)

/-- Driving the chip-selects is line changes alone (R103, R106). -/
theorem countP_selEvents {q : Event → Bool} (hq : ∀ l v, q (.line l v) = false) (c : Config) (csm css : Bool) (t : Target) :
    (selEvents c csm css t).countP q = 0 := by
  cases csm <;> cases css <;> cases t <;> simp [selEvents, Target.hasM, Target.hasS, hq]

theorem countP_deselEvents {q : Event → Bool} (hq : ∀ l v, q (.line l v) = false) (c : Config) (csm css : Bool)
    (t : Target) : (deselEvents c csm css t).countP q = 0 := by
  cases csm <;> cases css <;> cases t <;> simp [deselEvents, Target.hasM, Target.hasS, hq]

/-- A transaction transfers its command and its parameters, once each (R118). -/
theorem countP_isXfer_xferEvents (c : Config) (csm css : Bool) (t : Target) (cmd : Byte) (ps : List Byte) :
    (xferEvents c csm css t cmd ps).countP Event.isXfer = 1 + ps.length := by
  have hline : ∀ l v, Event.isXfer (.line l v) = false := fun _ _ => rfl
  have hxfer : ∀ dc sel b, Event.isXfer (.xfer dc sel b) = true := fun _ _ _ => rfl
  have hcmd : [Event.xfer c.dcCmd t.sel cmd].countP Event.isXfer = 1 := rfl
  simp only [xferEvents, List.countP_append, countP_xfers hxfer, countP_selEvents hline, countP_deselEvents hline, hcmd,
    Nat.zero_add, Nat.add_zero, if_true]

/-- Settles O16: a broadcast is one transaction that both controllers receive; the two pulses are one for each, and from
released lines the second starts as the first did. -/
theorem broadcastDiffersFromSeparatePulses : Obligations.BroadcastDiffersFromSeparatePulses := by
  intro c ps s hm hs one two
  have hone : newEvents s one = xferEvents s.cfg false false .both c ps := by
    refine newEvents_of_trace ?_
    simp only [one, xfer_eq, hm, hs]
  have htwo : newEvents s two = xferEvents s.cfg false false .master c ps ++ xferEvents s.cfg false false .slave c ps := by
    refine newEvents_of_trace ?_
    simp only [two, xfer_eq, hm, hs, List.append_assoc]
  rw [hone, htwo]
  refine ⟨fun h => ?_, countP_isXfer_xferEvents _ _ _ _ _ _, ?_⟩
  · rw [receivedBy_append, receivedBy_xferEvents, receivedBy_xferEvents, receivedBy_xferEvents]
    cases h with
    | master => exact ⟨rfl, List.append_nil _⟩
    | slave => exact ⟨rfl, rfl⟩
  · rw [List.countP_append, countP_isXfer_xferEvents, countP_isXfer_xferEvents]
    omega

/-- Settles O17: SEL, CMD, BLOCK and DESEL in a row emit the events of `xfer`, and each writes the same bookkeeping; without
parameters there is no BLOCK, and `xfer` drives no data level. -/
theorem xferPseudoInstructionSendsATransaction : Obligations.XferPseudoInstructionSendsATransaction := by
  intro t c ps s
  refine ⟨?_, by rw [xfer_eq]⟩
  rw [xfer_eq]
  cases ps with
  | nil =>
    show execAll [selInstr t, .cmd c, deselInstr t] s = _
    rw [execAll_cons_of_next (exec_selInstr_eq t s), execAll_cons_of_next (exec_cmd_eq c _),
      execAll_cons_of_next (exec_deselInstr_eq t _)]
    simp [execAll, rawTransfer, xferEvents, dcAfter, State.sel, Target.sel]
  | cons p ps =>
    show execAll [selInstr t, .cmd c, .block (p :: ps), deselInstr t] s = _
    rw [execAll_cons_of_next (exec_selInstr_eq t s), execAll_cons_of_next (exec_cmd_eq c _),
      execAll_cons_of_next (exec_block_eq (p :: ps) _), execAll_cons_of_next (exec_deselInstr_eq t _)]
    simp [execAll, rawTransfer, xferEvents, dcAfter, State.sel, Target.sel]

/-! Waits with pending levels. -/

/-- The code of a wait's result tells how it ended (R134, R139). -/
theorem waitResult_code_eq_one_iff (b : Bool) : (waitResult b).code = 0x01#8 ↔ b = true := by
  cases b <;> decide

theorem waitResult_code_eq_zero_iff (b : Bool) : (waitResult b).code = 0x00#8 ↔ b = false := by
  cases b <;> decide

/-- BWAIT in full with pending levels (R134). -/
theorem exec_bwait_pending {s : State} {levels rest : List Level} {o : Wait} (hscript : WaitScript s.cfg levels o)
    (hbusy : s.env.busyIn = levels ++ rest) :
    exec .bwait s = .next { afterPolls levels o { s.env with busyIn := rest } s with
      result := (waitResult (o = .timedOut)).code, phase := .idle } := by
  show endOp (setResult (waitResult ((busyWait s).1 = .timedOut)) (busyWait s).2) = _
  rw [busyWait_pending levels rest o s hscript hbusy]
  rfl

/-- Settles O21: the polls follow the pending script, and the flag and the code say how it ended. -/
theorem busyWaitSamplesThePendingLevels : Obligations.BusyWaitSamplesThePendingLevels := by
  intro s levels rest o _ hscript hbusy
  refine ⟨_, exec_bwait_pending hscript hbusy, rfl, rfl, decide_eq_true_iff, ?_, ?_⟩
  · rw [waitResult_code_eq_one_iff, decide_eq_true_iff]
  · rw [waitResult_code_eq_zero_iff]
    cases o <;> simp

/-- Settles O24: the three waits take their scripts from the pending levels, one after the other. -/
theorem cycleSamplesThePendingLevels : Obligations.CycleSamplesThePendingLevels := by
  intro s w1 w2 w3 rest o1 o2 o3 hinit hrender h1 h2 h3 hbusy
  rw [List.append_assoc, List.append_assoc] at hbusy
  have hbody := cycleBody_pending w1 w2 w3 rest o1 o2 o3 s h1 h2 h3 hbusy
  refine ⟨_, exec_cycle_accepted hinit hrender, ?_⟩
  rw [hbody]
  refine ⟨rfl, rfl, rfl, ?_⟩
  show (waitResult _).code = 0x01#8 ↔ _
  rw [waitResult_code_eq_one_iff]
  simp [or_assoc]

/-- A power cycle's three commands and their parameters reach the controllers of its target (R117, R139). -/
theorem receivedBy_cycleEvents (h : Half) (c : Config) (csm css : Bool) (w1 w2 w3 : List Level) :
    receivedBy h (cycleEvents c csm css w1 w2 w3)
      = if c.cycleTarget.sel.has h then [c.cmdPon, c.cmdDrf, c.drfParam, c.cmdPof, c.pofParam] else [] := by
  have hdelay : receivedBy h [.delay .ponSettle] = [] := rfl
  simp only [cycleEvents, receivedBy_append, receivedBy_xferEvents, receivedBy_pollEvents, hdelay]
  split <;> rfl

/-- Settles O25: whatever its waits sample, an accepted cycle emits all of `cycleEvents`. -/
theorem cycleIsNeverCutShort : Obligations.CycleIsNeverCutShort := by
  intro s hinit hrender
  obtain ⟨w1, w2, w3, o1, o2, o3, env', -, -, -, hbody⟩ := cycleBody_spec s
  refine ⟨_, exec_cycle_accepted hinit hrender, ?_⟩
  rw [hbody]
  refine ⟨rfl, hrender, hinit, fun h => ?_⟩
  rw [newEvents_of_trace rfl, receivedBy_cycleEvents]

end Sys2Proof.Machine
end

section
/-! PROOFS. The storage read (spec/20_memory.md section 2) and RENDER (spec/42_renderer.md section 1): its early ends, its
events when the file is read out whole, and the streams it sends. -/

namespace Sys2Proof.Machine

/-! The storage read. -/

/-- What a read of an opened file can give when no other agent writes it (R64). -/
theorem ReadReply.bytes_prefix {r : ReadReply} (hr : ∀ bs, r ≠ .interfered bs) (n : Nat) (slice : List Byte) :
    r.bytes n slice <+: slice := by
  cases r with
  | whole => exact List.prefix_rfl
  | failed k => exact List.take_prefix k slice
  | interfered bs => exact absurd rfl (hr bs)

/-- Settles O34: the pending answer decides the bytes, and what it can give is an initial part of the slice, or all of it. -/
theorem storageReadsAnswerTheFile : Obligations.StorageReadsAnswerTheFile := by
  intro s F off n r rest hopen hread t
  have ht : t = _ := memRead_pending off n s r rest hread
  have hbytes : t.work.rowbuf = r.bytes n (fileBytes F off n) := by
    rw [ht, fileSlice, hopen]
    exact congrArg (r.bytes n) (StoredFile.slice_ofBytes F off n)
  have hlen : t.work.rowbuf.length ≤ n := by
    obtain ⟨d, env', hd, he⟩ := memRead_eq off n s
    simp only [t, he]
    exact hd
  refine ⟨by rw [ht], hlen, fun hr => ?_, fun hr => ?_⟩
  · rw [hbytes]
    exact ReadReply.bytes_prefix hr n _
  · rw [hbytes, hr]
    rfl

/-! RENDER without an image. -/

/-- The start of a render with no file pending (R61, R160). -/
theorem startRender_none {s : State} {files : List (Option (List Byte))} (hf : s.env.openIn = none :: files) :
    startRender s = { s with
      env := { s.env with openIn := files }, renderOk := false, rprog := ⟨.master, 0⟩, openFile := none
      trace := s.trace ++ [.sopen none] } :=
  sizeQuery_pending (setProgress .master 0 { s with renderOk := false }) none files hf

theorem renderBody_no_file {s : State} {files : List (Option (List Byte))} (hf : s.env.openIn = none :: files) :
    renderBody s = .raised { s with
      env := { s.env with openIn := files }, renderOk := false, rprog := ⟨.master, 0⟩, openFile := none
      result := ResultCode.noImage.code, trace := s.trace ++ [.sopen none] } := by
  rw [renderBody, startRender_none hf]
  rfl

theorem renderBody_wrong_size {s : State} {F : List Byte} {files : List (Option (List Byte))}
    (hf : s.env.openIn = some F :: files) (hF : F.length ≠ s.cfg.fbSize) :
    renderBody s = .raised { s with
      env := { s.env with openIn := files }, renderOk := false, rprog := ⟨.master, 0⟩, openFile := none
      result := ResultCode.noImage.code, trace := s.trace ++ [.sopen (some F.length), .sclose] } := by
  have hsize : (StoredFile.ofBytes F).size ≠ s.cfg.fbSize := hF
  rw [renderBody, startRender_pending hf]
  simp [renderOpened, hsize, raise, closeFile, emit, setResult]

/-- Settles O26: each of the three early ends comes before the first pass, which is where the bus is first driven. -/
theorem renderWithoutAnImageTouchesNoBus : Obligations.RenderWithoutAnImageTouchesNoBus :=
  ⟨fun _ hinit => ⟨_, exec_render_notInitialized hinit, rfl, rfl⟩,
    fun _ _ hinit hf => ⟨_, exec_render_raised hinit (renderBody_no_file hf), rfl, rfl⟩,
    fun _ _ _ hinit hf hF => ⟨_, exec_render_raised hinit (renderBody_wrong_size hf hF), rfl, rfl⟩⟩

/-! RENDER of a file that is read out whole. -/

/-- Settles O27: the body is two whole passes, and RENDER reports OK. -/
theorem renderOfAValidFile : Obligations.RenderOfAValidFile := by
  intro s F files rest hv hinit hf hF hr
  obtain ⟨w, hbody⟩ := renderBody_whole s F files rest hv hf hF hr
  exact ⟨_, exec_render_done hinit hbody, rfl, rfl, rfl, rfl⟩

/-- The events of such a render are `renderEvents`. -/
theorem exec_render_whole {s : State} {F : List Byte} {files : List (Option (List Byte))} {rest : List ReadReply}
    (hv : s.cfg.valid = true) (hinit : s.initialized = true) (hf : s.env.openIn = some F :: files)
    (hF : F.length = s.cfg.fbSize) (hr : s.env.readIn = List.replicate (4 * s.cfg.h) .whole ++ rest) :
    ∃ t, exec .render s = .next t ∧ newEvents s t = renderEvents s.cfg s.csm s.css F := by
  obtain ⟨t, hexec, -, -, -, ht⟩ := renderOfAValidFile s F files rest hv hinit hf hF hr
  exact ⟨t, hexec, newEvents_of_trace (by rw [ht])⟩

/-! What the controllers receive. -/

/-- A completed slave pass is one up to the read after its last, and the release of its select (R164). -/
theorem slavePassEvents_eq (c : Config) (F : List Byte) :
    slavePassEvents c F = passUntilRead .slave c false false F (2 * c.h) ++ [.line .csS c.csActive.flip] := by
  simp [slavePassEvents, passUntilRead, passStartEvents, rewindEvents, rowsUntilRead, rowEvents, List.range_eq_range',
    passTarget, passRowEvents]

/-- A render in its passes (R160). -/
theorem renderEvents_eq (c : Config) (csm css : Bool) (F : List Byte) :
    renderEvents c csm css F = .sopen (some F.length) :: masterPassEvents c csm css F
      ++ .delay .passSettle :: slavePassEvents c F ++ [.sclose] := by
  simp [renderEvents]

theorem receivedBy_slavePassEvents (h : Half) (c : Config) (F : List Byte) :
    receivedBy h (slavePassEvents c F) = if Target.slave.sel.has h then c.cmdDtm :: slaveStream c F c.h else [] := by
  have hrows : 2 * c.h / 2 = c.h := by omega
  rw [slavePassEvents_eq, receivedBy_append, receivedBy_passUntilRead, receivedBy_cons_none _ _ _ rfl, receivedBy_nil,
    List.append_nil, streamUntilRead, hrows]
  rfl

/-- What a completed render sends: each pass reaches its own controller alone (R162, R164). -/
theorem receivedBy_renderEvents (c : Config) (csm css : Bool) (F : List Byte) :
    receivedBy .master (renderEvents c csm css F) = c.cmdDtm :: masterStream c F c.h
      ∧ receivedBy .slave (renderEvents c csm css F) = c.cmdDtm :: slaveStream c F c.h := by
  have hsclose (h : Half) : receivedBy h [.sclose] = [] := rfl
  simp only [renderEvents_eq, receivedBy_append, receivedBy_cons_none _ _ _ (show Event.isXfer (.sopen _) = false from rfl),
    receivedBy_cons_none _ _ _ (show Event.isXfer (.delay _) = false from rfl), receivedBy_masterPassEvents,
    receivedBy_slavePassEvents, hsclose, List.append_nil]
  exact ⟨List.append_nil _, rfl⟩

/-- Settles O28: the two streams are read off the render's events. -/
theorem renderStreamsTheHalves : Obligations.RenderStreamsTheHalves := by
  intro s F files rest hv hinit hf hF hr
  obtain ⟨t, hexec, hnew⟩ := exec_render_whole hv hinit hf hF hr
  refine ⟨t, hexec, ?_⟩
  rw [hnew]
  exact receivedBy_renderEvents s.cfg s.csm s.css F

/-! The streams give the file back. -/

/-- Two reads in a row are one (R65). -/
theorem fileBytes_append (F : List Byte) (off m n : Nat) :
    fileBytes F off m ++ fileBytes F (off + m) n = fileBytes F off (m + n) := by
  rw [fileBytes, fileBytes, fileBytes, List.take_add, List.drop_drop]

/-- A file is the blocks of `k` bytes that it is cut into. -/
theorem flatMap_fileBytes (F : List Byte) (k n : Nat) :
    ((List.range n).flatMap fun r => fileBytes F (r * k) k) = F.take (n * k) := by
  induction n with
  | zero => simp
  | succ n ih =>
    rw [List.range_succ, List.flatMap_append, ih, List.flatMap_singleton, fileBytes, Nat.add_mul, Nat.one_mul, List.take_add]

theorem length_flatMap_blocks {f : Nat → List Byte} {k n : Nat} (hlen : ∀ i, i < n → (f i).length = k) :
    ((List.range n).flatMap f).length = n * k := by
  induction n with
  | zero => simp
  | succ n ih =>
    have hbefore := ih fun i hi => hlen i (Nat.lt_succ_of_lt hi)
    rw [List.range_succ, List.flatMap_append, List.flatMap_singleton, List.length_append, hbefore,
      hlen n (Nat.lt_succ_self n), Nat.add_mul, Nat.one_mul]

/-- In a row of blocks of `k` bytes, block `r` stands at offset `r * k`. -/
theorem fileBytes_flatMap_blocks {f : Nat → List Byte} {k n r : Nat} (hlen : ∀ i, i < n → (f i).length = k) (hr : r < n) :
    fileBytes ((List.range n).flatMap f) (r * k) k = f r := by
  induction n with
  | zero => omega
  | succ n ih =>
    have hlen' : ∀ i, i < n → (f i).length = k := fun i hi => hlen i (Nat.lt_succ_of_lt hi)
    have hbefore := length_flatMap_blocks hlen'
    rw [List.range_succ, List.flatMap_append, List.flatMap_singleton, fileBytes]
    rcases Nat.lt_succ_iff_lt_or_eq.1 hr with hlt | rfl
    · have hinside : r * k + k ≤ n * k := by
        rw [← Nat.succ_mul]
        exact Nat.mul_le_mul_right k hlt
      rw [List.drop_append_of_le_length (by omega), List.take_append_of_le_length (by rw [List.length_drop]; omega)]
      exact ih hlen' hlt
    · rw [← hbefore, List.drop_left, List.take_of_length_le (hlen r hr).le]

/-- Both halves of every row of a file of FB_SIZE bytes have HALF bytes (R65). -/
theorem length_halves {c : Config} {F : List Byte} (hv : c.valid = true) (hF : F.length = c.fbSize) {r : Nat} (hr : r < c.h) :
    (masterHalf c F r).length = c.half ∧ (slaveHalf c F r).length = c.half := by
  have hbpr := bpr_eq_two_half hv
  have hrow : r * c.bpr + c.bpr ≤ F.length := by
    rw [hF, ← Nat.succ_mul]
    exact Nat.mul_le_mul_right c.bpr hr
  rw [masterHalf, slaveHalf, length_fileBytes, length_fileBytes]
  omega

/-- Interleaving the two streams of a file of FB_SIZE bytes gives it back (R166). -/
theorem interleave_streams {c : Config} {F : List Byte} (hv : c.valid = true) (hF : F.length = c.fbSize) :
    interleave c.half c.h (masterStream c F c.h) (slaveStream c F c.h) = F := by
  have hrow : ∀ r ∈ List.range c.h, fileBytes (masterStream c F c.h) (r * c.half) c.half
      ++ fileBytes (slaveStream c F c.h) (r * c.half) c.half = fileBytes F (r * c.bpr) c.bpr := by
    intro r hr
    rw [masterStream, slaveStream, fileBytes_flatMap_blocks (fun _ hi => (length_halves hv hF hi).1) (List.mem_range.1 hr),
      fileBytes_flatMap_blocks (fun _ hi => (length_halves hv hF hi).2) (List.mem_range.1 hr), masterHalf, slaveHalf,
      fileBytes_append, ← bpr_eq_two_half hv]
  rw [interleave, List.flatMap_congr hrow, flatMap_fileBytes]
  exact List.take_of_length_le hF.le

/-- Settles O29: without the data-transfer command in front, the streams received are the file's two streams. -/
theorem renderStreamsReconstructTheFile : Obligations.RenderStreamsReconstructTheFile := by
  intro s F files rest hv hinit hf hF hr
  obtain ⟨t, hexec, hmaster, hslave⟩ := renderStreamsTheHalves s F files rest hv hinit hf hF hr
  refine ⟨t, hexec, ?_⟩
  rw [hmaster, hslave]
  exact interleave_streams hv hF

/-! How many events of each kind. -/

theorem rowEvents_succ (row : Nat → List Event) (n : Nat) : rowEvents row (n + 1) = rowEvents row n ++ row n := by
  rw [rowEvents, rowEvents, List.range_succ, List.flatMap_append, List.flatMap_singleton]

theorem countP_rowEvents {q : Event → Bool} {row : Nat → List Event} {k n : Nat}
    (hrow : ∀ r, r < n → (row r).countP q = k) : (rowEvents row n).countP q = n * k := by
  induction n with
  | zero => simp [rowEvents]
  | succ n ih =>
    have hbefore := ih fun r hr => hrow r (Nat.lt_succ_of_lt hr)
    rw [rowEvents_succ, List.countP_append, hbefore, hrow n (Nat.lt_succ_self n), Nat.add_mul, Nat.one_mul]

/-- A completed pass has emitted its start and the events of its rows. -/
theorem passUntilRead_all (p : Pass) (c : Config) (csm css : Bool) (F : List Byte) :
    passUntilRead p c csm css F (2 * c.h) = passStartEvents p c csm css ++ rowEvents (passRowEvents p c F) c.h := by
  simp [passUntilRead, rowsUntilRead, rowEvents, List.range_eq_range']

/-- The events of a completed render, counted by a predicate that neither line changes, SOPEN nor delays meet. -/
theorem countP_renderEvents {q : Event → Bool} (hline : ∀ l v, q (.line l v) = false) (hsopen : ∀ r, q (.sopen r) = false)
    (hdelay : ∀ d, q (.delay d) = false) (c : Config) (csm css : Bool) (F : List Byte) :
    (renderEvents c csm css F).countP q
      = (passStartEvents .master c csm css).countP q + (rowEvents (passRowEvents .master c F) c.h).countP q
        + (passStartEvents .slave c false false).countP q + (rowEvents (passRowEvents .slave c F) c.h).countP q
        + [Event.sclose].countP q := by
  rw [renderEvents_eq, masterPassEvents_eq, slavePassEvents_eq, passUntilRead_all, passUntilRead_all]
  simp [List.countP_cons, hline, hsopen, hdelay, Nat.add_assoc]

/-- The kinds of events that R169 counts in the start of a pass: its command, and the slave pass's rewind. -/
theorem countP_passStartEvents {q : Event → Bool} (hline : ∀ l v, q (.line l v) = false) (p : Pass) (c : Config)
    (csm css : Bool) :
    (passStartEvents p c csm css).countP q
      = (rewindEvents p).countP q + [Event.xfer c.dcCmd (passTarget p).sel c.cmdDtm].countP q := by
  rw [passStartEvents, List.countP_append, List.countP_append, countP_selEvents hline, Nat.add_zero]

/-- A completed row, by what a predicate says of reads and of transfers (R161, R164). -/
theorem countP_passRowEvents {q : Event → Bool} {x y : Bool} (hread : ∀ off n k, q (.sread off n k) = y)
    (hxfer : ∀ dc sel b, q (.xfer dc sel b) = x) (p : Pass) (c : Config) (F : List Byte) (r : Nat) :
    (passRowEvents p c F r).countP q
      = (if y then 2 else 0) + (if x then (passHalf p c F r).length else 0) + (keepaliveEvents c r).countP q := by
  have hone (off : Nat) : [Event.sread off c.half c.half].countP q = if y then 1 else 0 := by
    simp [List.countP_cons, hread]
  have htwo : (if y then 2 else 0) = (if y then 1 else 0) + if y then 1 else 0 := by cases y <;> rfl
  cases p with
  | master =>
    simp only [passRowEvents, masterRowEvents, List.countP_append, countP_xfers hxfer, hone, htwo, passHalf]
    ring
  | slave =>
    have hreads (off off' : Nat) : [Event.sread off c.half c.half, .sread off' c.half c.half].countP q
        = (if y then 1 else 0) + if y then 1 else 0 :=
      List.countP_append.trans (congrArg₂ (· + ·) (hone off) (hone off'))
    simp only [passRowEvents, slaveRowEvents, List.countP_append, countP_xfers hxfer, hreads, htwo, passHalf]

theorem countP_keepaliveEvents_eq_zero {q : Event → Bool} (hq : q .keepalive = false) (c : Config) (r : Nat) :
    (keepaliveEvents c r).countP q = 0 := by
  unfold keepaliveEvents
  split <;> simp [hq]

/-- After `n` rows the keep-alive point has been met once for every `YIELD_ROWS` of them (R163). -/
theorem countP_isKeepalive_rowEvents (p : Pass) (c : Config) (F : List Byte) (n : Nat) :
    (rowEvents (passRowEvents p c F) n).countP Event.isKeepalive = n / c.yieldRows := by
  induction n with
  | zero => simp [rowEvents]
  | succ n ih =>
    have hrow := countP_passRowEvents (q := Event.isKeepalive) (fun _ _ _ => rfl) (fun _ _ _ => rfl) p c F n
    have hpoint : (keepaliveEvents c n).countP Event.isKeepalive = if c.yieldRows ∣ n + 1 then 1 else 0 := by
      simp only [keepaliveEvents, ← Nat.dvd_iff_mod_eq_zero]
      split <;> rfl
    rw [rowEvents_succ, List.countP_append, ih, hrow, hpoint, Nat.succ_div]
    simp

/-- A completed render reads both halves of every row in each pass, rewinds once and closes the file once (R169). -/
theorem countP_isStorage_renderEvents (c : Config) (csm css : Bool) (F : List Byte) :
    (renderEvents c csm css F).countP Event.isStorage = 4 * c.h + 2 := by
  have hrows (p : Pass) : (rowEvents (passRowEvents p c F) c.h).countP Event.isStorage = c.h * 2 :=
    countP_rowEvents fun r _ => (countP_passRowEvents (fun _ _ _ => rfl) (fun _ _ _ => rfl) p c F r).trans
      (congrArg (2 + 0 + ·) (countP_keepaliveEvents_eq_zero rfl c r))
  rw [countP_renderEvents (fun _ _ => rfl) (fun _ => rfl) (fun _ => rfl), hrows, hrows,
    countP_passStartEvents fun _ _ => rfl, countP_passStartEvents fun _ _ => rfl]
  show 0 + 0 + c.h * 2 + (1 + 0) + c.h * 2 + 1 = 4 * c.h + 2
  omega

/-- A completed render transfers one half of every row in each pass, after its command (R169). -/
theorem countP_isXfer_renderEvents {c : Config} {F : List Byte} (hv : c.valid = true) (hF : F.length = c.fbSize)
    (csm css : Bool) : (renderEvents c csm css F).countP Event.isXfer = c.fbSize + 2 := by
  have hhalf (p : Pass) {r : Nat} (hr : r < c.h) : (passHalf p c F r).length = c.half := by
    obtain ⟨hmaster, hslave⟩ := length_halves hv hF hr
    cases p with
    | master => exact hmaster
    | slave => exact hslave
  have hrows (p : Pass) : (rowEvents (passRowEvents p c F) c.h).countP Event.isXfer = c.h * c.half :=
    countP_rowEvents fun r hr => by
      rw [countP_passRowEvents (y := false) (x := true) (fun _ _ _ => rfl) (fun _ _ _ => rfl),
        countP_keepaliveEvents_eq_zero rfl, if_pos rfl, hhalf p hr]
      simp
  rw [countP_renderEvents (fun _ _ => rfl) (fun _ => rfl) (fun _ => rfl), hrows, hrows,
    countP_passStartEvents fun _ _ => rfl, countP_passStartEvents fun _ _ => rfl, Config.fbSize, bpr_eq_two_half hv,
    Nat.mul_add]
  show 0 + 1 + c.h * c.half + (0 + 1) + c.h * c.half + 0 = c.h * c.half + c.h * c.half + 2
  omega

theorem countP_isKeepalive_renderEvents (c : Config) (csm css : Bool) (F : List Byte) :
    (renderEvents c csm css F).countP Event.isKeepalive = 2 * (c.h / c.yieldRows) := by
  rw [countP_renderEvents (fun _ _ => rfl) (fun _ => rfl) (fun _ => rfl), countP_isKeepalive_rowEvents,
    countP_isKeepalive_rowEvents, countP_passStartEvents fun _ _ => rfl, countP_passStartEvents fun _ _ => rfl]
  show 0 + 0 + c.h / c.yieldRows + (0 + 0) + c.h / c.yieldRows + 0 = 2 * (c.h / c.yieldRows)
  omega

/-- Settles O30: each kind of event is counted in the start of a pass, in a row and at the end. -/
theorem renderEventCounts : Obligations.RenderEventCounts := by
  intro s F files rest hv hinit hf hF hr
  obtain ⟨t, hexec, hnew⟩ := exec_render_whole hv hinit hf hF hr
  refine ⟨t, hexec, ?_⟩
  rw [hnew]
  exact ⟨countP_isStorage_renderEvents _ _ _ _, countP_isXfer_renderEvents hv hF _ _,
    countP_isKeepalive_renderEvents _ _ _ _⟩

end Sys2Proof.Machine
end

section
/-! PROOFS. DISPLAY (spec/42_renderer.md section 2): a lazy INIT, the render, and the cycle of a render that completes. -/

namespace Sys2Proof.Machine

/-- A lazy INIT keeps what a render and a cycle read (R170). -/
theorem displayStart_keeps (s : State) :
    (displayStart s).cfg = s.cfg ∧ (displayStart s).env = s.env ∧ (displayStart s).busyLast = s.busyLast
      ∧ (displayStart s).tout = s.tout ∧ (displayStart s).tocnt = s.tocnt := by
  rw [displayStart_eq_update]
  exact ⟨rfl, rfl, rfl, rfl, rfl⟩

/-- The state that an accepted configuration's cycle leaves: its last wait has sampled, and what was sampled before it is
forgotten (R34, R139). -/
theorem afterCycle_eq {s : State} {w1 w2 w3 : List Level} {o3 : Wait} (hvalid : s.cfg.valid = true)
    (h3 : WaitScript s.cfg w3 o3) (o1 o2 : Wait) (env' : Env) :
    afterCycle w1 w2 w3 o1 o2 o3 env' s = { s with
      env := env'
      csm := false
      css := false
      dc := s.cfg.dcData
      power := .off
      busyLast := w3.getLast?.getD s.busyLast
      busyValid := true
      tout := decide (o3 = .timedOut)
      tocnt := BitVec.ofNat 16 (min (s.tocnt.toNat + [o1, o2, o3].count .timedOut) 0xFFFF)
      result := if o1 = .timedOut ∨ o2 = .timedOut ∨ o3 = .timedOut then 0x01#8 else 0x00#8
      trace := s.trace ++ cycleEvents s.cfg s.csm s.css w1 w2 w3
      work := { s.work with cyclePhase := .powerOff } } := by
  simp [afterCycle, h3.getLast?_getD hvalid _ s.busyLast, h3.ne_nil hvalid, countTimeouts_eq, waitResult_code, or_assoc]

/-- The state that the body of a render leaves when `F` is read out whole, with the answers that are still pending (R160). -/
def rendered (F : List Byte) (files : List (Option (List Byte))) (rest : List ReadReply) (w : Work) (s : State) : State :=
  { s with
    env := { s.env with openIn := files, readIn := rest }
    csm := false
    css := false
    dc := s.cfg.dcData
    renderOk := true
    rprog := ⟨.slave, BitVec.ofNat 11 s.cfg.h⟩
    work := w
    openFile := none
    trace := s.trace ++ renderEvents s.cfg s.csm s.css F }

/-- Settles O32: from the state that the lazy INIT leaves, the render reads the file out whole and its cycle samples the three
scripts. -/
theorem displayIsInitThenRenderThenCycle : Obligations.DisplayIsInitThenRenderThenCycle := by
  intro s F files rest w1 w2 w3 more o1 o2 o3 hv hf hF hr hbusy h1 h2 h3
  obtain ⟨hcfg, henv, -⟩ := displayStart_keeps s
  rw [List.append_assoc, List.append_assoc, ← henv] at hbusy
  rw [← hcfg] at hv hF hr h1 h2 h3
  rw [← henv] at hf hr
  obtain ⟨w, hbody⟩ : ∃ w, renderBody (displayStart s) = .done (rendered F files rest w (displayStart s)) :=
    renderBody_whole (displayStart s) F files rest hv hf hF hr
  have hcycle := cycleBody_pending w1 w2 w3 more o1 o2 o3 (rendered F files rest w (displayStart s)) h1 h2 h3 hbusy
  rw [afterCycle_eq (s := rendered F files rest w (displayStart s)) hv h3] at hcycle
  refine ⟨_, exec_display_done hbody, ?_⟩
  rw [hcycle]
  refine ⟨rfl, rfl, rfl, ?_⟩
  unfold displayStart
  split
  next hinit => simp [workEnded, forgetWork, rendered, hinit]
  next hinit => simp [workEnded, forgetWork, rendered, initBody_eq]

/-- The events of a DISPLAY whose render fails: INIT's, when it was due, and the render's (R170, R171). -/
theorem newEvents_display_raised {s u : State} (hbody : renderBody (displayStart s) = .raised u) :
    ∃ evs, newEvents s (workEnded u) = (if s.initialized then [] else initEvents s.cfg s.csm s.css) ++ evs
      ∧ (evs = [.sopen none] ∨ ∃ n mid, evs = [.sopen (some n)] ++ mid ++ [.sclose]
          ∧ ∀ e ∈ mid, passEvent s.cfg e = true) := by
  obtain ⟨evs, htrace, hevs⟩ := renderBody_trace (displayStart s)
  rw [hbody, displayStart_trace, List.append_assoc] at htrace
  rw [(displayStart_keeps s).1] at hevs
  exact ⟨evs, newEvents_of_trace htrace, hevs⟩

/-- Settles O33: DISPLAY's end is that of its render: a failed one is RENDER's from the initialised block, and only a completed
one runs the cycle. -/
theorem displayRunsNoCycleAfterAFailedRender : Obligations.DisplayRunsNoCycleAfterAFailedRender := by
  intro s
  obtain ⟨-, -, hlast, htout, htocnt⟩ := displayStart_keeps s
  have hends := renderBody_ends (displayStart s)
  cases hbody : renderBody (displayStart s) with
  | raised u =>
    rw [hbody] at hends
    obtain ⟨hok, hresult⟩ := hends.raised_result
    have hkeeps : RenderKeeps (displayStart s) u := hends.1
    obtain ⟨evs, htrace, hquiet⟩ := hkeeps.trace_of_displayStart
    refine ⟨_, exec_display_raised hbody, hkeeps.initialized_of_displayStart, fun _ => ⟨hresult, ?_,
      exec_render_raised (displayStart_initialized s) hbody, newEvents_display_raised hbody, hkeeps.busyLast.trans hlast,
      hkeeps.tout.trans htout, hkeeps.tocnt.trans htocnt⟩, fun ht => absurd (hok.symm.trans ht) Bool.noConfusion⟩
    rw [newEvents_of_trace (t := workEnded u) htrace]
    exact hquiet
  | done u =>
    rw [hbody] at hends
    obtain ⟨w1, w2, w3, o1, o2, o3, env', -, -, -, hcycle⟩ := cycleBody_spec u
    refine ⟨_, exec_display_done hbody, ?_⟩
    rw [hcycle]
    exact ⟨hends.1.initialized_of_displayStart, fun ht => absurd (hends.done_renderOk.symm.trans ht) Bool.noConfusion,
      fun _ => ⟨waitResult_code_mem _, rfl⟩⟩

end Sys2Proof.Machine
end
